-- ==== Sys2Proof/Word.lean ====
section
/-! DEFINITION. The word types of the engine: a byte, a 16-bit offset or operand, a 32-bit command word (00_scope.md R7). -/

namespace Sys2Proof

/-- A byte: 8 bits (R7, R50). -/
abbrev Byte := BitVec 8

/-- A 16-bit offset register or operand (R7, R22). -/
abbrev Half := BitVec 16

/-- A 32-bit command word, or a 32-bit tick (R37, R80). -/
abbrev Word := BitVec 32

/-- The 16-bit field that holds the number `n` (fields are unsigned, R81). -/
abbrev half (n : Nat) : Half := BitVec.ofNat 16 n

end Sys2Proof
end

