-- ==== Sys2Proof/Syntax.lean ====
section
/-! DEFINITION. The operations: one constructor of `Instr` for each of the 34 command rows and 3 event rows of
spec/opcode_table.json (30_encoding.md R87, R91), and the frames in which they arrive (R80, R86, R91). -/

namespace Sys2Proof

/-- The buffer select `BUF`: 0 = TX, 1 = RX; a stand-alone BufferEngine has buffer 0 only (R80). -/
inductive BufSel where
  | tx
  | rx
deriving DecidableEq, Repr

/-- The class of an operation (R88); `event` is the class the table gives the three strobes. -/
inductive Side where
  | put
  | get
  | either
  | host
  | event
deriving DecidableEq, Repr

/-- The operations of R87 and the events of R91, with their operands (R81). -/
inductive Instr where
  | init (b : BufSel) (cap : Half) (typ : BitVec 2) (fmt : BitVec 3)
  | isempty (b : BufSel)
  | isfull (b : BufSel)
  | count (b : BufSel)
  | free (b : BufSel)
  | putb (b : BufSel) (v : Byte)
  | putbu (b : BufSel) (v : Byte)
  | getb (b : BufSel)
  | peekb (b : BufSel)
  | peekat (b : BufSel) (k : Half)
  | remove (b : BufSel) (n : Half)
  | rspan (b : BufSel)
  | wspan (b : BufSel)
  | geterr (b : BufSel)
  | clrerr (b : BufSel)
  | drd (b : BufSel) (off : Half)
  | shBegin (b : BufSel)
  | shWrite (b : BufSel) (v : Byte)
  | shCommit (b : BufSel)
  | pktPut (b : BufSel) (payload : List Byte)
  | pktHas (b : BufSel)
  | pktGetc (b : BufSel)
  | encData (b : BufSel) (v : Byte)
  | encCtrl (b : BufSel) (c : Byte)
  | encQuote (b : BufSel)
  | encLit (b : BufSel) (v : Byte)
  | decPeek (b : BufSel)
  | decGet (b : BufSel)
  | decPeekl (b : BufSel)
  | decGetl (b : BufSel)
  | pdWriteb (v : Byte)
  | pdIsbusy
  | pdStatus
  | pdClrerr
  | evRxirq
  | evTxirq
  | evTask
deriving DecidableEq, Repr

/-- What reaches the engine from outside as one operation: a command word with its payload beats (R80, R86), or the
3-bit event vector `EV` (R91). -/
inductive Frame where
  | cmd (w : Word) (beats : List Byte)
  | ev (v : BitVec 3)
deriving DecidableEq, Repr

end Sys2Proof
end

