-- ==== Sys2Proof/WellFormed.lean ====
section
/-! DEFINITION. Which terms of `Instr` are instructions. Every operand has the width its type gives it; the one check that
is left is the payload length of `PKT_PUT`: "a list longer than 65535 cannot be expressed" (30_encoding.md R86). -/

namespace Sys2Proof

/-- The well-formedness check of an instruction (R86). -/
def Instr.wf : Instr → Bool
  | .pktPut _ payload => decide (payload.length < 65536)
  | .init .. => true
  | .isempty _ => true
  | .isfull _ => true
  | .count _ => true
  | .free _ => true
  | .putb .. => true
  | .putbu .. => true
  | .getb _ => true
  | .peekb _ => true
  | .peekat .. => true
  | .remove .. => true
  | .rspan _ => true
  | .wspan _ => true
  | .geterr _ => true
  | .clrerr _ => true
  | .drd .. => true
  | .shBegin _ => true
  | .shWrite .. => true
  | .shCommit _ => true
  | .pktHas _ => true
  | .pktGetc _ => true
  | .encData .. => true
  | .encCtrl .. => true
  | .encQuote _ => true
  | .encLit .. => true
  | .decPeek _ => true
  | .decGet _ => true
  | .decPeekl _ => true
  | .decGetl _ => true
  | .pdWriteb _ => true
  | .pdIsbusy => true
  | .pdStatus => true
  | .pdClrerr => true
  | .evRxirq => true
  | .evTxirq => true
  | .evTask => true

end Sys2Proof
end

