-- ==== Sys2Proof/Decode.lean ====
section
/-! DEFINITION. Decoding and encoding (30_encoding.md R80, R81, R85 to R89, R91). `decode` is total on every frame and rejects
by name; `encode` writes the frame of an instruction from the same fields. -/

namespace Sys2Proof

/-- Why a frame is no operation. Every one of the first two makes the word ILLEGAL (R89 (a), (b)). -/
inductive DecodeError where
  | badOpcode (op : BitVec 8)      -- `OP` is none of the 34 values of R87
  | reservedBits (op : BitVec 8)   -- a bit that R87 requires to be 0 is 1
  | beatCount (given : Nat)        -- not the number of payload beats the word announces (R86)
  | noEvent                        -- no strobe of `EV` is raised
  | severalEvents                  -- more than one strobe: the events are served one at a time (60_exceptions.md R248)
deriving DecidableEq, Repr

/-- `CW[31:24]` (R80). -/
def opField (w : Word) : BitVec 8 := w.extractLsb' 24 8

/-- `CW[23]` (R80). -/
def bufField (w : Word) : BitVec 1 := w.extractLsb' 23 1

/-- `CW[22:16]` (R80). -/
def auxField (w : Word) : BitVec 7 := w.extractLsb' 16 7

/-- `CW[15:0]` (R80). -/
def argField (w : Word) : Half := w.extractLsb' 0 16

/-- The byte operand `ARG[7:0]` (R81). -/
def byteField (w : Word) : Byte := w.extractLsb' 0 8

/-- `BUF`: 0 = TX, 1 = RX (R80). -/
def BufSel.ofBit (x : BitVec 1) : BufSel := if x = 0#1 then .tx else .rx

/-- The bit that selects a buffer (R80). -/
def BufSel.bit : BufSel → BitVec 1
  | .tx => 0#1
  | .rx => 1#1

/-- How many payload beats follow the word: `ARG` of them if `OP = 0x20`, none otherwise (R86). -/
def beatCount (w : Word) : Nat := if opField w = 0x20#8 then (argField w).toNat else 0

/-- An operation without operand: `AUX` and `ARG` are 0 (R87, R89 (b)). -/
def plainForm (w : Word) (i : BufSel → Instr) : Except DecodeError Instr :=
  if auxField w = 0#7 ∧ argField w = 0#16 then .ok (i (.ofBit (bufField w))) else .error (.reservedBits (opField w))

/-- An operation with a byte operand: `AUX` and `ARG[15:8]` are 0 (R87, R89 (b)). -/
def byteForm (w : Word) (i : BufSel → Byte → Instr) : Except DecodeError Instr :=
  if auxField w = 0#7 ∧ w.extractLsb' 8 8 = 0#8 then .ok (i (.ofBit (bufField w)) (byteField w))
  else .error (.reservedBits (opField w))

/-- An operation with a 16-bit operand: `AUX` is 0 (R87, R89 (b)). -/
def halfForm (w : Word) (i : BufSel → Half → Instr) : Except DecodeError Instr :=
  if auxField w = 0#7 then .ok (i (.ofBit (bufField w)) (argField w)) else .error (.reservedBits (opField w))

/-- A `PD_*` operation without operand: `BUF`, `AUX` and `ARG` are 0 (R87, R89 (b)). -/
def hostForm (w : Word) (i : Instr) : Except DecodeError Instr :=
  if bufField w = 0#1 ∧ auxField w = 0#7 ∧ argField w = 0#16 then .ok i else .error (.reservedBits (opField w))

/-- `PD_WRITEB`: `BUF`, `AUX` and `ARG[15:8]` are 0 (R87, R89 (b)). -/
def hostByteForm (w : Word) (i : Byte → Instr) : Except DecodeError Instr :=
  if bufField w = 0#1 ∧ auxField w = 0#7 ∧ w.extractLsb' 8 8 = 0#8 then .ok (i (byteField w))
  else .error (.reservedBits (opField w))

/-- `INIT`: `AUX[1:0]` = type, `AUX[4:2]` = format, `AUX[6:5]` = 0, `ARG` = capacity. The reserved codes of type and format
are operands, not illegal words (R85, R89). -/
def initForm (w : Word) : Except DecodeError Instr :=
  if w.extractLsb' 21 2 = 0#2 then
    .ok (.init (.ofBit (bufField w)) (argField w) (w.extractLsb' 16 2) (w.extractLsb' 18 3))
  else .error (.reservedBits (opField w))

/-- `PKT_PUT`: `ARG` = len, then len payload beats (R86). -/
def packetForm (w : Word) (beats : List Byte) : Except DecodeError Instr :=
  if auxField w = 0#7 then .ok (.pktPut (.ofBit (bufField w)) beats) else .error (.reservedBits (opField w))

/-- The opcode map of R87: which operation a command word is, once its payload beats are there. -/
def decodeOp (w : Word) (beats : List Byte) : Except DecodeError Instr :=
  match (opField w).toNat with
  | 0x01 => initForm w
  | 0x02 => plainForm w .isempty
  | 0x03 => plainForm w .isfull
  | 0x04 => plainForm w .count
  | 0x05 => plainForm w .free
  | 0x06 => byteForm w .putb
  | 0x07 => byteForm w .putbu
  | 0x08 => plainForm w .getb
  | 0x09 => plainForm w .peekb
  | 0x0A => halfForm w .peekat
  | 0x0B => halfForm w .remove
  | 0x0C => plainForm w .rspan
  | 0x0D => plainForm w .wspan
  | 0x0E => plainForm w .geterr
  | 0x0F => plainForm w .clrerr
  | 0x10 => halfForm w .drd
  | 0x18 => plainForm w .shBegin
  | 0x19 => byteForm w .shWrite
  | 0x1A => plainForm w .shCommit
  | 0x20 => packetForm w beats
  | 0x21 => plainForm w .pktHas
  | 0x22 => plainForm w .pktGetc
  | 0x30 => byteForm w .encData
  | 0x31 => byteForm w .encCtrl
  | 0x32 => plainForm w .encQuote
  | 0x33 => byteForm w .encLit
  | 0x38 => plainForm w .decPeek
  | 0x39 => plainForm w .decGet
  | 0x3A => plainForm w .decPeekl
  | 0x3B => plainForm w .decGetl
  | 0x40 => hostByteForm w .pdWriteb
  | 0x41 => hostForm w .pdIsbusy
  | 0x42 => hostForm w .pdStatus
  | 0x43 => hostForm w .pdClrerr
  | _ => .error (.badOpcode (opField w))

/-- A command word with its payload beats. -/
def decodeCommand (w : Word) (beats : List Byte) : Except DecodeError Instr :=
  if beats.length = beatCount w then decodeOp w beats else .error (.beatCount beats.length)

/-- An event vector with one strobe raised: `EV[0] = EV_RXIRQ`, `EV[1] = EV_TXIRQ`, `EV[2] = EV_TASK` (R91). -/
def decodeEvent (v : BitVec 3) : Except DecodeError Instr :=
  match v.toNat with
  | 0 => .error .noEvent
  | 1 => .ok .evRxirq
  | 2 => .ok .evTxirq
  | 4 => .ok .evTask
  | _ => .error .severalEvents

/-- The decoder: total on every frame, rejecting by name. -/
def decode : Frame → Except DecodeError Instr
  | .cmd w beats => decodeCommand w beats
  | .ev v => decodeEvent v

/-- The command word `OP[31:24] BUF[23] AUX[22:16] ARG[15:0]` (R80). -/
def assemble (op : BitVec 8) (b : BufSel) (aux : BitVec 7) (arg : Half) : Word := op ++ b.bit ++ aux ++ arg

/-- The encoder: the frame of an instruction, from the operand columns of R87 (and R91 for the events). -/
def encode : Instr → Frame
  | .init b cap typ fmt => .cmd (assemble 0x01#8 b (0#2 ++ fmt ++ typ) cap) []
  | .isempty b => .cmd (assemble 0x02#8 b 0#7 0#16) []
  | .isfull b => .cmd (assemble 0x03#8 b 0#7 0#16) []
  | .count b => .cmd (assemble 0x04#8 b 0#7 0#16) []
  | .free b => .cmd (assemble 0x05#8 b 0#7 0#16) []
  | .putb b v => .cmd (assemble 0x06#8 b 0#7 (0#8 ++ v)) []
  | .putbu b v => .cmd (assemble 0x07#8 b 0#7 (0#8 ++ v)) []
  | .getb b => .cmd (assemble 0x08#8 b 0#7 0#16) []
  | .peekb b => .cmd (assemble 0x09#8 b 0#7 0#16) []
  | .peekat b n => .cmd (assemble 0x0A#8 b 0#7 n) []
  | .remove b n => .cmd (assemble 0x0B#8 b 0#7 n) []
  | .rspan b => .cmd (assemble 0x0C#8 b 0#7 0#16) []
  | .wspan b => .cmd (assemble 0x0D#8 b 0#7 0#16) []
  | .geterr b => .cmd (assemble 0x0E#8 b 0#7 0#16) []
  | .clrerr b => .cmd (assemble 0x0F#8 b 0#7 0#16) []
  | .drd b n => .cmd (assemble 0x10#8 b 0#7 n) []
  | .shBegin b => .cmd (assemble 0x18#8 b 0#7 0#16) []
  | .shWrite b v => .cmd (assemble 0x19#8 b 0#7 (0#8 ++ v)) []
  | .shCommit b => .cmd (assemble 0x1A#8 b 0#7 0#16) []
  | .pktPut b payload => .cmd (assemble 0x20#8 b 0#7 (half payload.length)) payload
  | .pktHas b => .cmd (assemble 0x21#8 b 0#7 0#16) []
  | .pktGetc b => .cmd (assemble 0x22#8 b 0#7 0#16) []
  | .encData b v => .cmd (assemble 0x30#8 b 0#7 (0#8 ++ v)) []
  | .encCtrl b v => .cmd (assemble 0x31#8 b 0#7 (0#8 ++ v)) []
  | .encQuote b => .cmd (assemble 0x32#8 b 0#7 0#16) []
  | .encLit b v => .cmd (assemble 0x33#8 b 0#7 (0#8 ++ v)) []
  | .decPeek b => .cmd (assemble 0x38#8 b 0#7 0#16) []
  | .decGet b => .cmd (assemble 0x39#8 b 0#7 0#16) []
  | .decPeekl b => .cmd (assemble 0x3A#8 b 0#7 0#16) []
  | .decGetl b => .cmd (assemble 0x3B#8 b 0#7 0#16) []
  | .pdWriteb v => .cmd (assemble 0x40#8 .tx 0#7 (0#8 ++ v)) []
  | .pdIsbusy => .cmd (assemble 0x41#8 .tx 0#7 0#16) []
  | .pdStatus => .cmd (assemble 0x42#8 .tx 0#7 0#16) []
  | .pdClrerr => .cmd (assemble 0x43#8 .tx 0#7 0#16) []
  | .evRxirq => .ev 0b001#3
  | .evTxirq => .ev 0b010#3
  | .evTask => .ev 0b100#3

/-- `BUF<<23` (R80). -/
def BufSel.word : BufSel → Word
  | .tx => 0x00000000#32
  | .rx => 0x00800000#32

/-- `match` and `mask` of the row of R87 that an operation belongs to, or of spec/opcode_table.json for an event (R91). -/
def opcodeRow : Instr → Word × Word
  | .init .. => (0x01000000, 0xFF600000)
  | .isempty _ => (0x02000000, 0xFF7FFFFF)
  | .isfull _ => (0x03000000, 0xFF7FFFFF)
  | .count _ => (0x04000000, 0xFF7FFFFF)
  | .free _ => (0x05000000, 0xFF7FFFFF)
  | .putb .. => (0x06000000, 0xFF7FFF00)
  | .putbu .. => (0x07000000, 0xFF7FFF00)
  | .getb _ => (0x08000000, 0xFF7FFFFF)
  | .peekb _ => (0x09000000, 0xFF7FFFFF)
  | .peekat .. => (0x0A000000, 0xFF7F0000)
  | .remove .. => (0x0B000000, 0xFF7F0000)
  | .rspan _ => (0x0C000000, 0xFF7FFFFF)
  | .wspan _ => (0x0D000000, 0xFF7FFFFF)
  | .geterr _ => (0x0E000000, 0xFF7FFFFF)
  | .clrerr _ => (0x0F000000, 0xFF7FFFFF)
  | .drd .. => (0x10000000, 0xFF7F0000)
  | .shBegin _ => (0x18000000, 0xFF7FFFFF)
  | .shWrite .. => (0x19000000, 0xFF7FFF00)
  | .shCommit _ => (0x1A000000, 0xFF7FFFFF)
  | .pktPut .. => (0x20000000, 0xFF7F0000)
  | .pktHas _ => (0x21000000, 0xFF7FFFFF)
  | .pktGetc _ => (0x22000000, 0xFF7FFFFF)
  | .encData .. => (0x30000000, 0xFF7FFF00)
  | .encCtrl .. => (0x31000000, 0xFF7FFF00)
  | .encQuote _ => (0x32000000, 0xFF7FFFFF)
  | .encLit .. => (0x33000000, 0xFF7FFF00)
  | .decPeek _ => (0x38000000, 0xFF7FFFFF)
  | .decGet _ => (0x39000000, 0xFF7FFFFF)
  | .decPeekl _ => (0x3A000000, 0xFF7FFFFF)
  | .decGetl _ => (0x3B000000, 0xFF7FFFFF)
  | .pdWriteb _ => (0x40000000, 0xFFFFFF00)
  | .pdIsbusy => (0x41000000, 0xFFFFFFFF)
  | .pdStatus => (0x42000000, 0xFFFFFFFF)
  | .pdClrerr => (0x43000000, 0xFFFFFFFF)
  | .evRxirq => (1, 1)
  | .evTxirq => (2, 2)
  | .evTask => (4, 4)

/-- The frame of a row of spec/opcode_table.json whose bits are `w`: the three event rows are the 3-bit vector `EV` (one
byte); every other row is a 32-bit command word, followed, for `PKT_PUT`, by the payload beats it announces, all 0. -/
def tableFrame (nbits w : Nat) : Frame :=
  if nbits ≤ 8 then .ev (BitVec.ofNat 3 w)
  else .cmd (BitVec.ofNat 32 w) (List.replicate (beatCount (BitVec.ofNat 32 w)) 0#8)

/-- The instruction the decoder reads from a word of spec/opcode_table.json (bits above the 3 strobes do not exist). -/
def decodeTableWord (nbits w : Nat) : Option Instr :=
  if nbits ≤ 8 ∧ 8 ≤ w then none
  else
    match decode (tableFrame nbits w) with
    | .ok i => some i
    | .error _ => none

end Sys2Proof
end

