-- ==== Sys2Proof/Config.lean ====
section
/-! DEFINITION. What an instance of the engine fixes (00_scope.md R5) and the one free value of the model (20_memory.md R66).
The constraints on the parameters (R6) are `Machine.Params.ok`, in Machine/Operands.lean. -/

namespace Sys2Proof.Config

/-- Which of the two nested blocks the instance is (R2). -/
inductive EngineKind where
  | bufferEngine   -- one Buffer, ports P and G, no events
  | portEngine     -- buffers TX and RX, port H, three events, the peripheral
deriving DecidableEq, Repr

/-- The parameters each Buffer has of its own (R5): `STORE_SIZE`, `ESC`, `QUOTE`. -/
structure BufParams where
  storeSize : Nat
  esc       : Byte
  quote     : Byte
deriving DecidableEq, Repr

/-- The parameters of one engine instance (R5). A stand-alone BufferEngine is described by `tx` alone. -/
structure Params where
  kind      : EngineKind
  tx        : BufParams
  rx        : BufParams
  minCap    : Nat
  txTimeout : Nat
deriving DecidableEq, Repr

/-- The defaults of R5's table, the values of the spec's test vectors. -/
def BufParams.default : BufParams := { storeSize := 65535, esc := 0x5E#8, quote := 0x27#8 }

/-- An instance of the kind `k` with the defaults of R5's table. -/
def Params.default (k : EngineKind) : Params :=
  { kind := k, tx := BufParams.default, rx := BufParams.default, minCap := 1, txTimeout := 100 }

/-- FREE VALUE. What the n-th read of a storage byte that nothing has written since reset returns: an arbitrary byte, a
fresh draw at each read, under no law (R66). It has no body, so nothing can be proved of its value. -/
opaque freeByte : Nat → Byte

end Sys2Proof.Config
end

