-- ==== Sys2Proof/Machine/State.lean ====
section
/-! DEFINITION. The machine's state: the Buffer records (10_state.md R20 to R31), the PortSession (R32 to R35), what the
engine sees of the outside (R36, R37), the pending micro-steps and the response of each agent (R38, 30_encoding.md R82), and
the model's own fields: the instance's parameters, the sequence of inputs still to come, the free-draw counter. -/

namespace Sys2Proof.Machine

open Sys2Proof.Config

/-- Storage bytes by offset, as (offset, byte) pairs: offsets strictly rising; an offset that is not listed has not been
written since reset and holds no defined value (R31, R66). -/
abbrev Memory := List Host.Cell

/-- The framing type `typ`, 2 bits; code 3 is never held (R26). -/
inductive BufType where
  | stream
  | packet
  | largePacket
deriving DecidableEq, Repr

/-- The codec format `fmt`, 3 bits; codes 5 to 7 are never held (R27). -/
inductive Format where
  | none
  | binary
  | binaryEscaped
  | ascii
  | asciiEscaped
deriving DecidableEq, Repr

/-- The transmit state tag `pstate`, 2 bits; code 3 is never held (R33). -/
inductive TxState where
  | idle
  | transmitting
  | stopping
deriving DecidableEq, Repr

/-- The status codes `ST` (60_exceptions.md R241). -/
inductive Status where
  | ok
  | nospace
  | format
  | nodata
  | range
  | porterr
  | malformed
  | zerolen
  | wrongctx
  | uninit
  | busy
  | illegal
  | fault
  | notxn
deriving DecidableEq, Repr

/-- The symbol kinds `KIND` (30_encoding.md R84). -/
inductive Kind where
  | none
  | data
  | ctrl
  | quote
  | qclose
deriving DecidableEq, Repr

/-- A response `(ST, KIND, A, B)` (00_scope.md R10, 30_encoding.md R82). -/
structure Response where
  st   : Status
  kind : Kind
  a    : Half
  b    : Half
deriving DecidableEq, Repr

/-- The command ports: `P` and `G` of a BufferEngine, `H` of a PortEngine (R2). -/
inductive Port where
  | p
  | g
  | h
deriving DecidableEq, Repr

/-- The agents that take steps of the engine: one for each port, and the interrupt agent (44_portdriver.md R225,
60_exceptions.md R254). The agent of port `H` is the task agent: it also takes the `EV_TASK` polls. -/
inductive Agent where
  | p
  | g
  | h
  | irq
deriving DecidableEq, Repr

/-- A pending step of an operation or an event in progress (R38 (b), 20_memory.md R58, R60, R62). -/
inductive Micro where
  | uput (b : BufSel) (v : Byte)   -- store one byte at put and advance put (R60)
  | fill (b : BufSel)              -- the filler micro-step (R60)
  | kick                           -- the last micro-step of PD_WRITEB (R217)
  | pktHas (b : BufSel)            -- the next round of PKT_HAS after a filler was removed (R165)
  | pktGetc (b : BufSel)           -- the same inside PKT_GETC (R166)
  | drain                          -- the next iteration of the receive drain (R216)
deriving DecidableEq, Repr

/-- One agent: the micro-steps it still has to take (R38), the response that its operation's entry check fixed and that is
given in the last of them (R60, R290), and the last response its port has given (none while an operation is in progress). -/
structure Lane where
  todo  : List Micro
  reply : Option Response
  out   : Option Response
deriving DecidableEq, Repr

/-- An agent with nothing pending and no response given yet. -/
def Lane.idle : Lane := { todo := [], reply := none, out := none }

/-- The Buffer record (R20): capacity, offsets, type, format, sticky error flag, shadow cursor with its valid bit, and the
backing storage. -/
structure Buffer where
  cap   : Half
  put   : Half
  get   : Half
  typ   : BufType
  fmt   : Format
  err   : Bool
  cur   : Half
  shv   : Bool
  store : Memory
deriving DecidableEq, Repr

/-- A Buffer after reset (R43). -/
def Buffer.reset : Buffer :=
  { cap := 0, put := 0, get := 0, typ := .stream, fmt := .none, err := false, cur := 0, shv := false, store := [] }

/-- The peripheral as its five primitives see it (R36), in the form of the reference peripheral (44_portdriver.md R226): the
receive queue, the transmit register, the bytes sent, and the flags overrun, framing and parity. -/
structure Peripheral where
  rxq     : List Byte
  txreg   : Option Byte
  txlog   : List Byte
  overrun : Bool
  framing : Bool
  parity  : Bool
deriving DecidableEq, Repr

/-- The reference peripheral at its start (70_reset_and_hazards.md R271). -/
def Peripheral.reset : Peripheral :=
  { rxq := [], txreg := none, txlog := [], overrun := false, framing := false, parity := false }

/-- What happens next outside: the environment's sequence of commands, events and moves, and the order in which the agents
take their steps (R39, 20_memory.md R59). -/
inductive Input where
  | cmd (port : Port) (w : Word) (beats : List Byte)   -- a command word on a port, with its payload beats (R80, R86)
  | ev (v : BitVec 3) (txFirst : Bool)              -- event strobes; `txFirst`: the order of the two interrupts (R248)
  | go (a : Agent)                                  -- the agent takes its next pending micro-step (R59, R60)
  | tick (n : Word)                                 -- the tick input now shows n (R37)
  | rx (v : Byte)                                   -- the peripheral receives a byte (R226)
  | sent                                            -- the byte in the transmit register goes out (R226)
  | seterr (f : BitVec 3)                           -- error flags rise: bit 0 overrun, 1 framing, 2 parity (R226)
  | periph (q : Peripheral)                         -- any other move of the peripheral (93_implementation_defined.md U23)
  | reset                                           -- the reset input (70_reset_and_hazards.md R270)
deriving DecidableEq, Repr

/-- Why the machine stops although an operation was accepted. -/
inductive Fault where
  /-- Raised by a storage access at an offset that is not below `cap`: "No access is ever made at an offset ≥ cap"
  (20_memory.md R51), so the spec has no such storage byte. SAFE: the model stops where the spec has no access; no state
  that meets the invariant of R24 raises it. -/
  | offsetOutsideBuffer (b : BufSel) (off : Nat)
deriving DecidableEq, Repr

/-- Why a step has no meaning. -/
inductive Refusal where
  /-- Raised by an arm of `exec` for an instruction without a meaning. No arm raises it. SAFE. -/
  | notModelled (mnemonic : String)
  /-- Raised by `step` when the parameters break a constraint: "A model refuses to build an instance whose parameters
  break a constraint" (00_scope.md R6). SAFE. -/
  | badInstance
  /-- Raised by `step` when the environment uses an input that this kind of engine does not have (R2: ports `P` and `G`
  are the BufferEngine's, port `H` and the events the PortEngine's). SAFE. -/
  | noSuchInput
  /-- Raised by `step` when a command comes with a number of payload beats other than the one its word announces: it is
  "followed on the same port by exactly `len` payload beats" (30_encoding.md R86). SAFE. -/
  | strayBeats
deriving DecidableEq, Repr

/-- The state of one engine instance and of what stands around it. -/
structure State where
  par      : Params         -- the instance's parameters, which no step changes (R5, R39)
  tx       : Buffer         -- buffer 0: TX of a PortEngine, the one Buffer of a BufferEngine (R20, R32)
  rx       : Buffer         -- buffer 1: RX of a PortEngine (R32)
  fault    : Bool           -- the fault latch (R30)
  pstate   : TxState        -- the transmit state tag (R33)
  deadline : Word           -- the transmit deadline (R34)
  toErr    : Bool           -- the sticky timeout flag (R35)
  laneP    : Lane           -- the agent of port P (R38)
  laneG    : Lane           -- the agent of port G (R38)
  laneH    : Lane           -- the task agent, port H (R38)
  laneI    : Lane           -- the interrupt agent (R38)
  per      : Peripheral     -- outside the engine (R36)
  now      : Word           -- the tick input (R37)
  actor    : Agent          -- MODEL: the agent whose step is being taken
  inputs   : List Input     -- MODEL: what the environment does next, in order (R39)
  draws    : Nat            -- MODEL: how many free bytes have been drawn (R66)
deriving DecidableEq, Repr

/-- An engine with the parameters `par`, right after reset (R43, R271). -/
def State.resetWith (par : Params) : State :=
  { par := par, tx := .reset, rx := .reset, fault := false, pstate := .idle, deadline := 0, toErr := false,
    laneP := .idle, laneG := .idle, laneH := .idle, laneI := .idle, per := .reset, now := 0, actor := .h,
    inputs := [], draws := 0 }

/-- The machine right after reset: a PortEngine with the default parameters of R5 (R43, R271). -/
def State.reset : State := .resetWith (.default .portEngine)

end Sys2Proof.Machine
end

