-- ==== Sys2Proof/Machine/Operands.lean ====
section
/-! DEFINITION. Operand forms and the values computed from them: offset arithmetic and effective addresses (00_scope.md R8,
20_memory.md R51), spans, the codes of the enumerations, hex digits and the encoding function (43_codec.md R182 to R184), the
decode functions (R189), and the parameter constraints (R6). -/

namespace Sys2Proof.Machine

open Sys2Proof.Config

/-- `inc(b, x) = (x + 1) mod cap` (R8). -/
def Buffer.inc (q : Buffer) (x : Nat) : Nat := (x + 1) % q.cap.toNat

/-- `add(b, x, n) = (x + n) mod cap`, the sum formed without truncation (R8). -/
def Buffer.add (q : Buffer) (x n : Nat) : Nat := (x + n) % q.cap.toNat

/-- `count(b) = (put − get) mod cap` (R8). -/
def Buffer.count (q : Buffer) : Nat :=
  if q.get.toNat ≤ q.put.toNat then q.put.toNat - q.get.toNat else q.put.toNat + q.cap.toNat - q.get.toNat

/-- `free(b) = cap − 1 − count(b)` (R8). -/
def Buffer.free (q : Buffer) : Nat := q.cap.toNat - 1 - q.count

/-- The number of bytes written through the shadow cursor: `(cur − put) mod cap` (41_shadow.md R153). -/
def Buffer.shadowed (q : Buffer) : Nat :=
  if q.put.toNat ≤ q.cur.toNat then q.cur.toNat - q.put.toNat else q.cur.toNat + q.cap.toNat - q.put.toNat

/-- The length that `RSPAN` reports (40_ringstore.md R124). -/
def Buffer.readSpan (q : Buffer) : Nat :=
  if q.get.toNat ≤ q.put.toNat then q.put.toNat - q.get.toNat else q.cap.toNat - q.get.toNat

/-- The length that `WSPAN` reports when `put ≥ get`, and the `tailw` of `PKT_PUT` (40_ringstore.md R125, 42_framing.md R164). -/
def Buffer.tailSpan (q : Buffer) : Nat := q.cap.toNat - q.put.toNat - (if q.get.toNat = 0 then 1 else 0)

/-- The length that `WSPAN` reports (40_ringstore.md R125). -/
def Buffer.writeSpan (q : Buffer) : Nat :=
  if q.get.toNat ≤ q.put.toNat then q.tailSpan else q.get.toNat - q.put.toNat - 1

/-- The prefix size `P` of a packet (42_framing.md, introduction); a Stream has no prefix. -/
def BufType.prefixSize : BufType → Nat
  | .stream => 0
  | .packet => 1
  | .largePacket => 2

/-- The largest payload of a packet (42_framing.md R160, R161). -/
def BufType.maxPayload : BufType → Nat
  | .stream => 0
  | .packet => 254
  | .largePacket => 65279

/-- The prefix that `PKT_PUT` stores before a payload of length `n`, big-endian (20_memory.md R54, 42_framing.md R164). -/
def BufType.prefixBytes (t : BufType) (n : Nat) : List Byte :=
  match t with
  | .stream => []
  | .packet => [BitVec.ofNat 8 n]
  | .largePacket => [BitVec.ofNat 8 (n / 256), BitVec.ofNat 8 n]

/-- The `type` operand of `INIT` (30_encoding.md R85); 3 is reserved. -/
def BufType.ofCode (c : BitVec 2) : Option BufType :=
  match c.toNat with
  | 0 => some .stream
  | 1 => some .packet
  | 2 => some .largePacket
  | _ => none

/-- The `format` operand of `INIT` (30_encoding.md R85); 5 to 7 are reserved. -/
def Format.ofCode (c : BitVec 3) : Option Format :=
  match c.toNat with
  | 0 => some .none
  | 1 => some .binary
  | 2 => some .binaryEscaped
  | 3 => some .ascii
  | 4 => some .asciiEscaped
  | _ => Option.none

/-- The code of the state tag (10_state.md R33). -/
def TxState.code : TxState → Nat
  | .idle => 0
  | .transmitting => 1
  | .stopping => 2

/-- The status codes (60_exceptions.md R241). -/
def Status.code : Status → BitVec 4
  | .ok => 0
  | .nospace => 1
  | .format => 2
  | .nodata => 3
  | .range => 4
  | .porterr => 5
  | .malformed => 6
  | .zerolen => 7
  | .wrongctx => 8
  | .uninit => 9
  | .busy => 10
  | .illegal => 11
  | .fault => 12
  | .notxn => 13

/-- The kind codes (30_encoding.md R84). -/
def Kind.code : Kind → BitVec 4
  | .none => 0
  | .data => 1
  | .ctrl => 2
  | .quote => 3
  | .qclose => 4

/-- The response word `ST[39:36] KIND[35:32] A[31:16] B[15:0]` (30_encoding.md R82). -/
def Response.word (r : Response) : BitVec 40 := r.st.code ++ r.kind.code ++ r.a ++ r.b

/-- The format has escape pairs (43_codec.md R186). -/
def Format.escaped : Format → Bool
  | .binaryEscaped => true
  | .asciiEscaped => true
  | .none => false
  | .binary => false
  | .ascii => false

/-- The format has hex pairs and literal text (43_codec.md R187). -/
def Format.hex : Format → Bool
  | .ascii => true
  | .asciiEscaped => true
  | .none => false
  | .binary => false
  | .binaryEscaped => false

/-- `hexchar(n)` for `n ≤ 15` (43_codec.md R184). -/
def hexChar (n : Nat) : Byte := BitVec.ofNat 8 (if n ≤ 9 then 0x30 + n else 0x37 + n)

/-- `hexval(b)`, defined for the sixteen upper-case digits only (43_codec.md R184). -/
def hexVal (b : Byte) : Option Nat :=
  if 0x30 ≤ b.toNat ∧ b.toNat ≤ 0x39 then some (b.toNat - 0x30)
  else if 0x41 ≤ b.toNat ∧ b.toNat ≤ 0x46 then some (b.toNat - 0x37)
  else none

/-- `[hexhi(v), hexlo(v)]`, the high digit first (43_codec.md R184). -/
def hexPair (v : Byte) : List Byte := [hexChar (v.toNat / 16), hexChar (v.toNat % 16)]

/-- `enc(fmt, Data(v))` (43_codec.md R182). -/
def Format.encData (f : Format) (esc v : Byte) : List Byte :=
  match f with
  | .none => [v]
  | .binary => [v]
  | .binaryEscaped => if v = esc then [esc, esc] else [v]
  | .ascii => hexPair v
  | .asciiEscaped => hexPair v

/-- `lit(v)` (43_codec.md R183). -/
def litBytes (quote v : Byte) : List Byte := if v = quote then [quote, quote] else [v]

/-- A decoded result: its kind, its byte and the number of stored bytes it stands for (43_codec.md R189). -/
structure Symbol where
  kind : Kind
  val  : Byte
  size : Nat
deriving DecidableEq, Repr

/-- The last lines of `dec(fmt)`: a byte of an ASCII format outside literal text, `c` bytes being held (43_codec.md R189). -/
def decodeHex (quote : Byte) (c : Nat) (b0 b1 : Byte) : Except Status Symbol :=
  if b0 = quote then .ok ⟨.quote, quote, 1⟩
  else
    match hexVal b0 with
    | none => .error .malformed
    | some hi =>
      if c < 2 then .error .nodata
      else
        match hexVal b1 with
        | none => .error .malformed
        | some lo => .ok ⟨.data, BitVec.ofNat 8 (hi * 16 + lo), 2⟩

/-- `dec(fmt)`, normal mode, on a buffer that holds `c ≥ 1` bytes, the first two of them `b0` and (if `c ≥ 2`) `b1`
(43_codec.md R189). -/
def Format.decodeNormal (f : Format) (esc quote : Byte) (c : Nat) (b0 b1 : Byte) : Except Status Symbol :=
  match f with
  | .none => .ok ⟨.data, b0, 1⟩
  | .binary => .ok ⟨.data, b0, 1⟩
  | .binaryEscaped =>
    if b0 = esc then
      if c < 2 then .error .nodata else if b1 = esc then .ok ⟨.data, esc, 2⟩ else .ok ⟨.ctrl, b1, 2⟩
    else .ok ⟨.data, b0, 1⟩
  | .ascii => decodeHex quote c b0 b1
  | .asciiEscaped =>
    if b0 = esc then
      if c < 2 then .error .nodata else if b1 = esc then .ok ⟨.data, esc, 2⟩ else .ok ⟨.ctrl, b1, 2⟩
    else decodeHex quote c b0 b1

/-- `decl(fmt)`, literal mode, after its FORMAT test, on a buffer that holds `c ≥ 1` bytes (43_codec.md R189). -/
def decodeLiteral (quote : Byte) (c : Nat) (b0 b1 : Byte) : Except Status Symbol :=
  if b0 = quote then
    if c < 2 then .error .nodata else if b1 = quote then .ok ⟨.data, quote, 2⟩ else .ok ⟨.qclose, quote, 1⟩
  else .ok ⟨.data, b0, 1⟩

/-- The class of an operation (30_encoding.md R87, R88, R91). -/
def sideOf : Instr → Side
  | .init .. => .either
  | .isempty _ => .either
  | .isfull _ => .either
  | .count _ => .either
  | .free _ => .either
  | .putb .. => .put
  | .putbu .. => .put
  | .getb _ => .get
  | .peekb _ => .get
  | .peekat .. => .get
  | .remove .. => .get
  | .rspan _ => .get
  | .wspan _ => .put
  | .geterr _ => .either
  | .clrerr _ => .either
  | .drd .. => .get
  | .shBegin _ => .put
  | .shWrite .. => .put
  | .shCommit _ => .put
  | .pktPut .. => .put
  | .pktHas _ => .get
  | .pktGetc _ => .get
  | .encData .. => .put
  | .encCtrl .. => .put
  | .encQuote _ => .put
  | .encLit .. => .put
  | .decPeek _ => .get
  | .decGet _ => .get
  | .decPeekl _ => .get
  | .decGetl _ => .get
  | .pdWriteb _ => .host
  | .pdIsbusy => .host
  | .pdStatus => .host
  | .pdClrerr => .host
  | .evRxirq => .event
  | .evTxirq => .event
  | .evTask => .event

/-- The buffer that an operation selects; for the `PD_*` operations and the events, `TX` (30_encoding.md R90 (4)). -/
def bufOf : Instr → BufSel
  | .init b _ _ _ => b
  | .isempty b => b
  | .isfull b => b
  | .count b => b
  | .free b => b
  | .putb b _ => b
  | .putbu b _ => b
  | .getb b => b
  | .peekb b => b
  | .peekat b _ => b
  | .remove b _ => b
  | .rspan b => b
  | .wspan b => b
  | .geterr b => b
  | .clrerr b => b
  | .drd b _ => b
  | .shBegin b => b
  | .shWrite b _ => b
  | .shCommit b => b
  | .pktPut b _ => b
  | .pktHas b => b
  | .pktGetc b => b
  | .encData b _ => b
  | .encCtrl b _ => b
  | .encQuote b => b
  | .encLit b _ => b
  | .decPeek b => b
  | .decGet b => b
  | .decPeekl b => b
  | .decGetl b => b
  | .pdWriteb _ => .tx
  | .pdIsbusy => .tx
  | .pdStatus => .tx
  | .pdClrerr => .tx
  | .evRxirq => .rx
  | .evTxirq => .tx
  | .evTask => .tx

end Sys2Proof.Machine

namespace Sys2Proof.Config

/-- The parameters of the buffer that `BUF` selects (00_scope.md R5). -/
def Params.buf (p : Params) : BufSel → BufParams
  | .tx => p.tx
  | .rx => p.rx

/-- The constraints on a buffer's parameters (00_scope.md R5, R6). -/
def BufParams.ok (p : BufParams) (minCap : Nat) : Bool :=
  decide (1 ≤ p.storeSize ∧ p.storeSize ≤ 65535 ∧ minCap ≤ p.storeSize ∧ p.esc ≠ p.quote) &&
    (Machine.hexVal p.esc).isNone && (Machine.hexVal p.quote).isNone

/-- The constraints on an instance's parameters (00_scope.md R5, R6). -/
def Params.ok (p : Params) : Bool :=
  p.tx.ok p.minCap && p.rx.ok p.minCap &&
    decide (1 ≤ p.minCap ∧ p.minCap ≤ 65535 ∧ 1 ≤ p.txTimeout ∧ p.txTimeout < 2147483648)

end Sys2Proof.Config
end

