-- ==== Sys2Proof/Machine/Flags.lean ====
section
/-! DEFINITION. The tests on the state that the rules name: empty and full (00_scope.md R8), the deadline test
(44_portdriver.md R221), the port sticky error (R217), busy (R218), the status bits (R219), the primitives `hasRxByte` and
`canTxByte` (R211, R226). -/

namespace Sys2Proof.Machine

/-- `isEmpty(b) = (put == get)` (R8). -/
def Buffer.isEmpty (q : Buffer) : Bool := q.put == q.get

/-- `isFull(b) = (inc(b, put) == get)` (R8). -/
def Buffer.isFull (q : Buffer) : Bool := q.inc q.put.toNat == q.get.toNat

/-- `elapsed(now, d)`: `((now − d) mod 2^32) < 2^31` (R221). -/
def elapsed (now d : Word) : Bool := decide ((now - d).toNat < 2147483648)

/-- `hasRxByte` (R211, R226). -/
def Peripheral.hasRx (q : Peripheral) : Bool := !q.rxq.isEmpty

/-- `canTxByte` (R211, R226). -/
def Peripheral.canTx (q : Peripheral) : Bool := q.txreg.isNone

/-- The port sticky error `err[TX] ∨ toErr` (10_state.md R35, R217). -/
def State.portError (s : State) : Bool := s.tx.err || s.toErr

/-- `pstate ≠ Idle or not isEmpty(TX)` (R218). -/
def State.portBusy (s : State) : Bool := s.pstate != .idle || !s.tx.isEmpty

/-- One bit of a field: `2^i` if the flag is set. -/
def bitAt (i : Nat) (x : Bool) : Nat := if x then 2 ^ i else 0

/-- `A[1:0] = pstate; A[2] = toErr; A[3] = err[TX]; A[4] = err[RX]` (R219). -/
def State.statusBits (s : State) : Nat :=
  s.pstate.code + bitAt 2 s.toErr + bitAt 3 s.tx.err + bitAt 4 s.rx.err

end Sys2Proof.Machine
end

