-- ==== Sys2Proof/Machine/Ops.lean ====
section
/-! DEFINITION. The named operations: storage, registers and agents, responses and refusals (the engine's only "exceptions",
60_exceptions.md R240, R241), the fault latch (R244), the common entry checks (30_encoding.md R90) and the put primitives
(00_scope.md R9, 20_memory.md R60). -/

namespace Sys2Proof.Machine

open Sys2Proof.Config

/-- The result of a meaning or of a step. -/
abbrev Result := Host.Outcome State Fault Refusal

/-! ## Storage -/

/-- What an offset that is not listed reads as: no defined value (20_memory.md R66). -/
def Memory.unlisted : Option Byte := none

/-- The byte that was last written at an offset, if one was (R31). -/
def Memory.read : Memory → Nat → Option Byte
  | [], _ => Memory.unlisted
  | (x, w) :: m, a => if a = x then some w else Memory.read m a

/-- Store one byte (R9). The canonical form is kept: offsets rise strictly. -/
def Memory.write : Memory → Nat → Byte → Memory
  | [], a, v => [(a, v)]
  | (x, w) :: m, a, v =>
    if a < x then (a, v) :: (x, w) :: m
    else if a = x then (a, v) :: m
    else (x, w) :: Memory.write m a v

/-- The canonical form: offsets strictly rising. (No entry can equal what an unlisted offset reads as, which is no value.) -/
abbrev Memory.wf (m : Memory) : Prop := m.Pairwise fun x y => x.1 < y.1

/-! ## Registers and agents -/

/-- The buffer that `BUF` selects (10_state.md R32). -/
def State.buf (s : State) : BufSel → Buffer
  | .tx => s.tx
  | .rx => s.rx

/-- Replace the buffer that `BUF` selects. -/
def State.setBuf (s : State) (b : BufSel) (q : Buffer) : State :=
  match b with
  | .tx => { s with tx := q }
  | .rx => { s with rx := q }

/-- `err[b] <- 1` (R28). -/
def State.setErr (s : State) (b : BufSel) : State := s.setBuf b { s.buf b with err := true }

/-- `err[b] <- 0` (R28). -/
def State.clearErr (s : State) (b : BufSel) : State := s.setBuf b { s.buf b with err := false }

/-- `put[b] <- n` (R22). -/
def State.setPut (s : State) (b : BufSel) (n : Nat) : State := s.setBuf b { s.buf b with put := half n }

/-- `get[b] <- n` (R23). -/
def State.setGet (s : State) (b : BufSel) (n : Nat) : State := s.setBuf b { s.buf b with get := half n }

/-- The lane of an agent. -/
def State.lane (s : State) : Agent → Lane
  | .p => s.laneP
  | .g => s.laneG
  | .h => s.laneH
  | .irq => s.laneI

/-- Replace the lane of an agent. -/
def State.setLane (s : State) (a : Agent) (l : Lane) : State :=
  match a with
  | .p => { s with laneP := l }
  | .g => { s with laneG := l }
  | .h => { s with laneH := l }
  | .irq => { s with laneI := l }

/-! ## Responses and refusals -/

/-- Give a response on the port of the agent that steps (30_encoding.md R82). -/
def State.respond (r : Response) (s : State) : State :=
  s.setLane s.actor { s.lane s.actor with out := some r }

/-- `return (KIND, A, B)`: the operation ends with status OK (R9). -/
def State.ret (kind : Kind) (a b : Nat) (s : State) : State :=
  s.respond { st := .ok, kind := kind, a := half a, b := half b }

/-- `raise <STATUS>(A, B)`: the operation ends at once with that status; `KIND` is 0 (R9, R82). This is what stands in the
place of taking an exception: there is no vector, no saved state and no return (60_exceptions.md R240, R249, R250). -/
def State.raise (st : Status) (a b : Nat) (s : State) : State :=
  s.respond { st := st, kind := .none, a := half a, b := half b }

/-- `raise <STATUS>(0, 0)`. -/
def State.refuse (st : Status) (s : State) : State := s.raise st 0 0

/-- `err <- 1; raise NOSPACE(0, 0)` (R28, R241). -/
def State.refuseNoSpace (b : BufSel) (s : State) : State := (s.setErr b).refuse .nospace

/-- The operation of the stepping agent goes on with the micro-steps `ms`; `r` is its response, given in the last of them,
if its value is known already (R38, R60, R290). -/
def State.begin (ms : List Micro) (r : Option Response) (s : State) : State :=
  s.setLane s.actor { todo := ms, reply := r, out := none }

/-- After a micro-step of the stepping agent: if it was the last, the response is given (R290). -/
def State.settle (s : State) : State :=
  let l := s.lane s.actor
  match l.todo, l.reply with
  | [], some r => s.setLane s.actor { todo := [], reply := none, out := some r }
  | _, _ => s

/-- The fault latch sets: pending micro-steps are dropped, and the command that was waiting for them is answered like every
command of a faulted engine (60_exceptions.md R244; DEDUCED, log entry 7). -/
def Lane.drop (l : Lane) : Lane :=
  if l.todo = [] then l
  else { todo := [], reply := none, out := some { st := .fault, kind := .none, a := 0, b := 0 } }

/-- The interrupt agent gives no responses (30_encoding.md R91). -/
def Lane.cancel (l : Lane) : Lane := { l with todo := [], reply := none }

/-- `fault <- 1` (10_state.md R30, R244). -/
def State.latchFault (s : State) : State :=
  { s with fault := true, laneP := s.laneP.drop, laneG := s.laneG.drop, laneH := s.laneH.drop, laneI := s.laneI.cancel }

/-! ## Storage access -/

/-- `MemRead(b, off, 1)`: the byte last written there; a byte that nothing has written since reset is a free draw
(20_memory.md R66). -/
def State.byteAt (s : State) (b : BufSel) (off : Nat) : Byte :=
  match Memory.read (s.buf b).store off with
  | some v => v
  | none => freeByte s.draws

/-- After that read: nothing changes (20_memory.md R67), but a free draw is used up, so that the next one is a fresh one. -/
def State.afterRead (s : State) (b : BufSel) (off : Nat) : State :=
  match Memory.read (s.buf b).store off with
  | some _ => s
  | none => { s with draws := s.draws + 1 }

/-- `v = MemRead(b, off, 1); k v`, which needs `off < cap` (R9). -/
def State.withByte (s : State) (b : BufSel) (off : Nat) (k : Byte → State → Result) : Result :=
  if off < (s.buf b).cap.toNat then k (s.byteAt b off) (s.afterRead b off) else .fault (.offsetOutsideBuffer b off)

/-- `MemWrite(b, off, 1, v)`, then `k` (R9). -/
def State.withWrite (s : State) (b : BufSel) (off : Nat) (v : Byte) (k : State → Result) : Result :=
  if off < (s.buf b).cap.toNat then
    k (s.setBuf b { s.buf b with store := Memory.write (s.buf b).store off v })
  else .fault (.offsetOutsideBuffer b off)

/-- `uput(b, v)`: `MemWrite(b, put[b], 1, v); put[b] <- inc(b, put[b])`, one step (R9, 20_memory.md R60), then `k`. -/
def State.withPut (s : State) (b : BufSel) (v : Byte) (k : State → Result) : Result :=
  s.withWrite b (s.buf b).put.toNat v fun t => k (t.setPut b ((t.buf b).inc (t.buf b).put.toNat))

/-- `fill(b)`: `MemWrite(b, put, 1, 0xFF); put <- 0`, one step (20_memory.md R60), then `k`. -/
def State.withFill (s : State) (b : BufSel) (k : State → Result) : Result :=
  s.withWrite b (s.buf b).put.toNat 0xFF#8 fun t => k (t.setPut b 0)

/-! ## Entry checks -/

/-- Which operations a port accepts (60_exceptions.md R251, 44_portdriver.md R224). -/
def portAccepts (kind : EngineKind) (a : Agent) (side : Side) (b : BufSel) : Bool :=
  match kind, a, side with
  | .bufferEngine, .p, .put => true
  | .bufferEngine, .p, .either => true
  | .bufferEngine, .g, .get => true
  | .bufferEngine, .g, .either => true
  | .portEngine, .h, .either => true
  | .portEngine, .h, .host => true
  | .portEngine, .h, .put => b == .tx
  | .portEngine, .h, .get => b == .rx
  | _, _, _ => false

/-- `BUF = 1` and the `PD_*` operations are illegal on a stand-alone BufferEngine (30_encoding.md R89 (c)). -/
def illegalHere (kind : EngineKind) (side : Side) (b : BufSel) : Bool :=
  kind == .bufferEngine && (b == .rx || side == .host)

/-- Checks (1) to (3) of R90: `FAULT`, `ILLEGAL`, `WRONGCTX`. -/
def State.portRefusal (s : State) (side : Side) (b : BufSel) : Option Status :=
  if s.fault then some .fault
  else if illegalHere s.par.kind side b then some .illegal
  else if portAccepts s.par.kind s.actor side b then none
  else some .wrongctx

/-- Checks (1) to (4) of R90: those of `portRefusal`, then `UNINIT`. -/
def State.entryRefusal (s : State) (side : Side) (b : BufSel) : Option Status :=
  match s.portRefusal side b with
  | some st => some st
  | none => if (s.buf b).cap = 0 then some .uninit else none

/-- A command that is exempt from the `UNINIT` check: `INIT`, `PD_STATUS`, `PD_CLRERR` (R90 (4)). -/
def State.commandAnytime (s : State) (side : Side) (b : BufSel) (body : Result) : Result :=
  match s.portRefusal side b with
  | some st => .next (s.refuse st)
  | none => body

/-- A command: its body runs after the checks (1) to (4) of R90; a refusal changes no state (40_ringstore.md R110). -/
def State.command (s : State) (side : Side) (b : BufSel) (body : Result) : Result :=
  match s.entryRefusal side b with
  | some st => .next (s.refuse st)
  | none => body

/-- What the checks (1) and (2) of R90 answer to a word that is no operation (R89). -/
def State.illegalWord (s : State) : State := if s.fault then s.refuse .fault else s.refuse .illegal

/-! ## Multi-byte puts -/

/-- The micro-steps that store the bytes `bs` (20_memory.md R60). -/
def putSteps (b : BufSel) (bs : List Byte) : List Micro := bs.map (Micro.uput b)

/-- Store the bytes of an encoded symbol, all or none of them: one byte in the step of the entry check, more as micro-steps
(R60, 43_codec.md R185); the response is `OK length 0`. -/
def State.storeAll (s : State) (b : BufSel) (bs : List Byte) : Result :=
  if (s.buf b).free < bs.length then .next (s.refuseNoSpace b)
  else
    match bs with
    | [v] => s.withPut b v fun t => .next (t.ret .none 1 0)
    | _ => .next (s.begin (putSteps b bs) (some { st := .ok, kind := .none, a := half bs.length, b := 0 }))

/-! ## Pending micro-steps -/

/-- The buffer a micro-step acts on. -/
def Micro.target : Micro → BufSel
  | .uput b _ => b
  | .fill b => b
  | .kick => .tx
  | .pktHas b => b
  | .pktGetc b => b
  | .drain => .rx

/-- The lane has a micro-step pending on the buffer. -/
def Lane.pendingOn (l : Lane) (b : BufSel) : Bool := l.todo.any fun m => m.target == b

/-- Another agent than the stepping one has a micro-step pending on the buffer (40_ringstore.md R113). -/
def State.pendingElsewhere (s : State) (b : BufSel) : Bool :=
  [Agent.p, Agent.g, Agent.h, Agent.irq].any fun a => a != s.actor && (s.lane a).pendingOn b

end Sys2Proof.Machine
end

