-- ==== Sys2Proof/Machine/Codec.lean ====
section
/-! DEFINITION. EscapeCodec, the escape-codec byte serializer: the eight operations of 43_codec.md. -/

namespace Sys2Proof.Machine

/-- `ESC` of a buffer (R181). -/
def State.esc (s : State) (b : BufSel) : Byte := (s.par.buf b).esc

/-- `QUOTE` of a buffer (R181). -/
def State.quote (s : State) (b : BufSel) : Byte := (s.par.buf b).quote

/-- `enc(fmt, Data(v))` in the buffer's format (R182). -/
def State.dataBytes (s : State) (b : BufSel) (v : Byte) : List Byte := (s.buf b).fmt.encData (s.esc b) v

/-- `ENC_DATA v` (R185). -/
def execEncData (b : BufSel) (v : Byte) (s : State) : Result :=
  s.command .put b <|
    if (s.buf b).shv then .next (s.refuse .busy) else s.storeAll b (s.dataBytes b v)

/-- `ENC_CTRL c` (R186). -/
def execEncCtrl (b : BufSel) (c : Byte) (s : State) : Result :=
  s.command .put b <|
    if !(s.buf b).fmt.escaped then .next (s.refuse .format)
    else if (s.buf b).shv then .next (s.refuse .busy)
    else if c = s.esc b then .next (s.refuse .range)
    else s.storeAll b [s.esc b, c]

/-- `ENC_QUOTE` (R187). -/
def execEncQuote (b : BufSel) (s : State) : Result :=
  s.command .put b <|
    if !(s.buf b).fmt.hex then .next (s.refuse .format)
    else if (s.buf b).shv then .next (s.refuse .busy)
    else s.storeAll b [s.quote b]

/-- `ENC_LIT v` (R188). -/
def execEncLit (b : BufSel) (v : Byte) (s : State) : Result :=
  s.command .put b <|
    if !(s.buf b).fmt.hex then .next (s.refuse .format)
    else if (s.buf b).shv then .next (s.refuse .busy)
    else s.storeAll b (litBytes (s.quote b) v)

/-- `b0 = MemRead(b, get, 1)` and, when `c ≥ 2`, `b1 = MemRead(b, add(b, get, 1), 1)` (R189); `b1` is not used otherwise. -/
def State.withTwoBytes (s : State) (b : BufSel) (k : Byte → Byte → State → Result) : Result :=
  s.withByte b (s.buf b).get.toNat fun b0 t =>
    if (t.buf b).count < 2 then k b0 b0 t
    else t.withByte b ((t.buf b).add (t.buf b).get.toNat 1) fun b1 u => k b0 b1 u

/-- Decode at `get` with the decode function `dec`, which sees the number of held bytes and the first two of them; then `k`
on the result, or the refusal (R189). -/
def State.decodeWith (s : State) (b : BufSel) (dec : Nat → Byte → Byte → Except Status Symbol)
    (k : Symbol → State → Result) : Result :=
  if (s.buf b).count = 0 then .next (s.refuse .nodata)
  else
    s.withTwoBytes b fun b0 b1 t =>
      match dec (s.buf b).count b0 b1 with
      | .error st => .next (t.refuse st)
      | .ok y => k y t

/-- `dec(fmt)` on the buffer (R189). -/
def State.decodeNormal (s : State) (b : BufSel) (k : Symbol → State → Result) : Result :=
  s.decodeWith b ((s.buf b).fmt.decodeNormal (s.esc b) (s.quote b)) k

/-- `decl(fmt)` on the buffer (R189). -/
def State.decodeLiteral (s : State) (b : BufSel) (k : Symbol → State → Result) : Result :=
  if !(s.buf b).fmt.hex then .next (s.refuse .format)
  else s.decodeWith b (Machine.decodeLiteral (s.quote b)) k

/-- The end of a peek-style decode: nothing is consumed (R190). -/
def State.peekSymbol (y : Symbol) (t : State) : Result := .next (t.ret y.kind y.val.toNat y.size)

/-- The end of a get-style decode: exactly what was decoded is consumed, by one write of `get` (R191). -/
def State.getSymbol (b : BufSel) (y : Symbol) (t : State) : Result :=
  .next ((t.setGet b ((t.buf b).add (t.buf b).get.toNat y.size)).ret y.kind y.val.toNat y.size)

/-- `DEC_PEEK` (R190). -/
def execDecPeek (b : BufSel) (s : State) : Result :=
  s.command .get b <| s.decodeNormal b State.peekSymbol

/-- `DEC_GET` (R191). -/
def execDecGet (b : BufSel) (s : State) : Result :=
  s.command .get b <| s.decodeNormal b (State.getSymbol b)

/-- `DEC_PEEKL` (R192). -/
def execDecPeekl (b : BufSel) (s : State) : Result :=
  s.command .get b <| s.decodeLiteral b State.peekSymbol

/-- `DEC_GETL` (R193). -/
def execDecGetl (b : BufSel) (s : State) : Result :=
  s.command .get b <| s.decodeLiteral b (State.getSymbol b)

end Sys2Proof.Machine
end

