-- ==== Sys2Proof/Machine/Framing.lean ====
section
/-! DEFINITION. FramingLayer, the packet-framing state interpreter: the three operations of 42_framing.md. -/

namespace Sys2Proof.Machine

/-- Where a packet of `need` bytes goes: `some false` at `put`, `some true` at offset 0 behind a filler, `none` nowhere
(R164; 90_conflicts.md C1). -/
def Buffer.placePacket (q : Buffer) (need : Nat) : Option Bool :=
  if q.get.toNat ≤ q.put.toNat then
    if need ≤ q.tailSpan then some false
    else if 1 ≤ q.get.toNat ∧ need ≤ q.get.toNat - 1 then some true
    else none
  else if need ≤ q.get.toNat - q.put.toNat - 1 then some false
  else none

/-- The micro-steps of `PKT_PUT`: the filler if there is one, the prefix, the payload (R164). -/
def packetSteps (b : BufSel) (t : BufType) (wrap : Bool) (payload : List Byte) : List Micro :=
  (if wrap then [Micro.fill b] else []) ++ putSteps b (t.prefixBytes payload.length ++ payload)

/-- `PKT_PUT [d0 … d(L−1)]`: the entry check fixes the response, the micro-steps follow (R164). -/
def execPktPut (b : BufSel) (payload : List Byte) (s : State) : Result :=
  s.command .put b <|
    let q := s.buf b
    let need := q.typ.prefixSize + payload.length
    if q.typ = .stream then .next (s.refuse .format)
    else if q.shv then .next (s.refuse .busy)
    else if payload.length < 1 ∨ q.typ.maxPayload < payload.length then .next (s.refuse .range)
    else
      match q.placePacket need with
      | none => .next (s.refuseNoSpace b)
      | some wrap =>
        .next (s.begin (packetSteps b q.typ wrap payload)
          (some { st := .ok, kind := .none, a := half need, b := half wrap.toNat }))

/-- What one round of the loop of `PKT_HAS` finds at `get` (R165). -/
inductive Scan where
  | filler               -- a filler that the producer has passed: `get <- 0`, and the check repeats
  | size (n : Nat)       -- OK: the size of the whole packet held, or 0
  | malformed
  | zerolen
deriving DecidableEq, Repr

/-- The end of a round, the length `len` of the packet at `get` being known (R165). -/
def Buffer.judgeLength (q : Buffer) (len : Nat) : Scan :=
  if len = 0 then .zerolen
  else if q.cap.toNat < q.get.toNat + q.typ.prefixSize + len then .malformed
  else if q.typ.prefixSize + len ≤ q.count then .size (q.typ.prefixSize + len)
  else .size 0

/-- One round of the loop of `PKT_HAS` on a buffer that is not a Stream (R165); `get` is not written yet. -/
def State.scanPacket (s : State) (b : BufSel) (k : Scan → State → Result) : Result :=
  if (s.buf b).count = 0 then k (.size 0) s
  else
    s.withByte b (s.buf b).get.toNat fun b0 t =>
      if b0 = 0xFF#8 then
        if (t.buf b).put.toNat < (t.buf b).get.toNat then k .filler t else k .malformed t
      else if (t.buf b).typ = .largePacket then
        if (t.buf b).count < 2 then k (.size 0) t
        else
          t.withByte b ((t.buf b).add (t.buf b).get.toNat 1) fun b1 u =>
            k ((u.buf b).judgeLength (b0.toNat * 256 + b1.toNat)) u
      else k ((t.buf b).judgeLength b0.toNat) t

/-- One round of `PKT_HAS`: after a filler is removed, the check repeats in the next step (R165, 20_memory.md R62). -/
def State.pktHasRound (s : State) (b : BufSel) : Result :=
  s.scanPacket b fun r t =>
    match r with
    | .filler => .next ((t.setGet b 0).begin [.pktHas b] none)
    | .size n => .next (t.ret .none n 0)
    | .malformed => .next (t.refuse .malformed)
    | .zerolen => .next (t.raise .zerolen (t.buf b).typ.prefixSize 0)

/-- `PKT_HAS` (R165). -/
def execPktHas (b : BufSel) (s : State) : Result :=
  s.command .get b <|
    if (s.buf b).typ = .stream then .next (s.refuse .format) else s.pktHasRound b

/-- One round of `PKT_GETC`, which runs `PKT_HAS` first (R166). -/
def State.pktGetcRound (s : State) (b : BufSel) : Result :=
  s.scanPacket b fun r t =>
    let q := t.buf b
    match r with
    | .filler => .next ((t.setGet b 0).begin [.pktGetc b] none)
    | .size n =>
      if n = 0 then .next (t.refuse .nodata)
      else .next (t.ret .none (q.get.toNat + q.typ.prefixSize) (n - q.typ.prefixSize))
    | .malformed => .next (t.refuse .malformed)
    | .zerolen => .next (t.raise .zerolen (q.add q.get.toNat q.typ.prefixSize) 0)

/-- `PKT_GETC` (R166). -/
def execPktGetc (b : BufSel) (s : State) : Result :=
  s.command .get b <|
    if (s.buf b).typ = .stream then .next (s.refuse .format) else s.pktGetcRound b

end Sys2Proof.Machine
end

