-- ==== Sys2Proof/Machine/PortDriver.lean ====
section
/-! DEFINITION. PortDriver, the UART transmit state machine with timeout: the procedures, the three events and the four host
operations of 44_portdriver.md. -/

namespace Sys2Proof.Machine

/-- `(now + TX_TIMEOUT) mod 2^32` (R213). -/
def State.armed (s : State) : Word := s.now + BitVec.ofNat 32 s.par.txTimeout

/-- `putTxByte(v)` (R211, R226). -/
def State.putTxByte (v : Byte) (s : State) : State := { s with per := { s.per with txreg := some v } }

/-- `clearErrorFlags()` (R211, R226). -/
def State.clearErrorFlags (s : State) : State :=
  { s with per := { s.per with overrun := false, framing := false, parity := false } }

/-- `v = MemRead(TX, get[TX], 1); get[TX] <- inc(TX, get[TX]); putTxByte(v)`, then `k` (R213, R215). -/
def State.withPulledByte (s : State) (k : State → Result) : Result :=
  s.withByte .tx s.tx.get.toNat fun v t => k ((t.setGet .tx (t.tx.inc t.tx.get.toNat)).putTxByte v)

/-- `kick(now)`, then `k` (R213). -/
def State.withKick (s : State) (k : State → Result) : Result :=
  let t := { s with pstate := .transmitting, deadline := s.armed }
  if s.per.canTx then t.withPulledByte k else k t

/-- `timeout()` (R222). -/
def State.timeout (s : State) : State :=
  { s with toErr := true, tx := { s.tx with get := s.tx.put }, pstate := .idle }

/-- `EV_TASK(now)` (R214). -/
def execEvTask (s : State) : Result :=
  if s.fault then .next s
  else if s.pstate = .idle then
    if s.tx.cap ≠ 0 ∧ s.tx.isEmpty = false then s.withKick .next else .next s
  else if elapsed s.now s.deadline then .next s.timeout
  else .next s

/-- `EV_TXIRQ(now)` (R215): nothing unless Transmitting, and nothing while the peripheral cannot take a byte, whether or not
`TX` is empty (R215's last words, 70_reset_and_hazards.md R287 (b), 92_eei_decisions.md D30; DEDUCED, log entry 18). -/
def execEvTxirq (s : State) : Result :=
  if s.fault then .next s
  else if s.pstate = .transmitting ∧ s.per.canTx = true then
    if s.tx.isEmpty then .next { s with pstate := .idle }
    else s.withPulledByte fun t => .next { t with deadline := t.armed }
  else .next s

/-- `EV_RXIRQ`: the error flags are cleared, and the receive drain begins (R216). -/
def execEvRxirq (s : State) : Result :=
  if s.fault then .next s
  else .next { s.clearErrorFlags with laneI := { s.laneI with todo := [.drain] } }

/-- `takeRxByte()` and the put of one iteration of the receive drain; a byte for which there is no room is dropped (R216). -/
def State.drainByte (s : State) : Result :=
  match s.per.rxq with
  | [] => .next s
  | v :: rest =>
    let t := { s with per := { s.per with rxq := rest } }
    if t.rx.cap = 0#16 ∨ t.rx.isFull = true then .next (t.setErr .rx)
    else t.withPut .rx v .next

/-- `PD_WRITEB v`: the entry check; the bytes and the kick-start follow as micro-steps (R217). -/
def execPdWriteb (v : Byte) (s : State) : Result :=
  s.command .host .tx <|
    let bs := s.dataBytes .tx v
    if s.portError then .next (s.refuse .porterr)
    else if s.tx.shv then .next (s.refuse .busy)
    else if s.tx.free < bs.length then .next (s.refuseNoSpace .tx)
    else
      .next (s.begin (putSteps .tx bs ++ [.kick])
        (some { st := .ok, kind := .none, a := 1, b := half bs.length }))

/-- The last micro-step of `PD_WRITEB`: the kick-start, "when `pstate == Idle` and `TX` is not empty" (R213, R217), then `k`. -/
def State.withIdleKick (s : State) (k : State → Result) : Result :=
  if s.pstate = .idle ∧ s.tx.isEmpty = false then s.withKick k else k s

/-- `PD_ISBUSY` (R218). -/
def execPdIsbusy (s : State) : Result :=
  s.command .host .tx <| .next (s.ret .none s.portBusy.toNat 0)

/-- `PD_STATUS` (R219). -/
def execPdStatus (s : State) : Result :=
  s.commandAnytime .host .tx <| .next (s.ret .none s.statusBits 0)

/-- `PD_CLRERR` (R220). -/
def execPdClrerr (s : State) : Result :=
  s.commandAnytime .host .tx <| .next (({ s with toErr := false }.clearErr .tx).ret .none 0 0)

end Sys2Proof.Machine
end

