-- ==== Sys2Proof/Machine/RingStore.lean ====
section
/-! DEFINITION. RingStore, the ring-buffer pointer engine: the sixteen operations of 40_ringstore.md. -/

namespace Sys2Proof.Machine

/-- The capacities that `INIT` accepts (R113). -/
def State.capAllowed (s : State) (b : BufSel) (cap : Half) : Bool :=
  decide (cap.toNat ≠ 0 ∧ s.par.minCap ≤ cap.toNat ∧ cap.toNat ≤ (s.par.buf b).storeSize)

/-- The Buffer after an accepted `INIT`: a new configuration, offsets and flags at 0, storage as it was (R113). -/
def Buffer.configured (q : Buffer) (cap : Half) (t : BufType) (f : Format) : Buffer :=
  { q with cap := cap, typ := t, fmt := f, put := 0, get := 0, err := false, cur := 0, shv := false }

/-- `INIT cap, type, format` (R113). -/
def execInit (b : BufSel) (cap : Half) (typ : BitVec 2) (fmt : BitVec 3) (s : State) : Result :=
  s.commandAnytime .either b <|
    match BufType.ofCode typ, Format.ofCode fmt with
    | some t, some f =>
      if !s.capAllowed b cap then .next (s.refuse .range)
      else if s.pendingElsewhere b then .next (s.refuse .busy)
      else .next ((s.setBuf b ((s.buf b).configured cap t f)).ret .none 0 0)
    | _, _ => .next (s.refuse .range)

/-- `ISEMPTY` (R114). -/
def execIsempty (b : BufSel) (s : State) : Result :=
  s.command .either b <| .next (s.ret .none (s.buf b).isEmpty.toNat 0)

/-- `ISFULL` (R115). -/
def execIsfull (b : BufSel) (s : State) : Result :=
  s.command .either b <| .next (s.ret .none (s.buf b).isFull.toNat 0)

/-- `COUNT` (R116). -/
def execCount (b : BufSel) (s : State) : Result :=
  s.command .either b <| .next (s.ret .none (s.buf b).count 0)

/-- `FREE` (R117). -/
def execFree (b : BufSel) (s : State) : Result :=
  s.command .either b <| .next (s.ret .none (s.buf b).free 0)

/-- `GETERR` (R126). -/
def execGeterr (b : BufSel) (s : State) : Result :=
  s.command .either b <| .next (s.ret .none (s.buf b).err.toNat 0)

/-- `CLRERR` (R127). -/
def execClrerr (b : BufSel) (s : State) : Result :=
  s.command .either b <| .next ((s.clearErr b).ret .none 0 0)

/-- `PUTB v` (R118, R154). -/
def execPutb (b : BufSel) (v : Byte) (s : State) : Result :=
  s.command .put b <|
    if (s.buf b).shv then .next (s.refuse .busy)
    else if (s.buf b).isFull then .next (s.refuseNoSpace b)
    else s.withPut b v fun t => .next (t.ret .none 1 0)

/-- `PUTBU v`: on a full buffer the fault latch sets (R119, R154). -/
def execPutbu (b : BufSel) (v : Byte) (s : State) : Result :=
  s.command .put b <|
    if (s.buf b).shv then .next (s.refuse .busy)
    else if (s.buf b).isFull then .next (s.latchFault.refuse .fault)
    else s.withPut b v fun t => .next (t.ret .none 1 0)

/-- `WSPAN` (R125). -/
def execWspan (b : BufSel) (s : State) : Result :=
  s.command .put b <| .next (s.ret .none (s.buf b).put.toNat (s.buf b).writeSpan)

/-- `GETB` (R120). -/
def execGetb (b : BufSel) (s : State) : Result :=
  s.command .get b <|
    if (s.buf b).isEmpty then .next (s.refuse .nodata)
    else
      s.withByte b (s.buf b).get.toNat fun v t =>
        .next ((t.setGet b ((t.buf b).inc (t.buf b).get.toNat)).ret .none v.toNat 0)

/-- `PEEKAT k`, the shared body of `PEEKB` (= `PEEKAT 0`) and `PEEKAT` (R121, R122). -/
def State.peekAt (s : State) (b : BufSel) (k : Nat) : Result :=
  if (s.buf b).count ≤ k then .next (s.refuse .nodata)
  else s.withByte b ((s.buf b).add (s.buf b).get.toNat k) fun v t => .next (t.ret .none v.toNat 0)

/-- `PEEKB` (R121). -/
def execPeekb (b : BufSel) (s : State) : Result :=
  s.command .get b <| s.peekAt b 0

/-- `PEEKAT k` (R122). -/
def execPeekat (b : BufSel) (k : Half) (s : State) : Result :=
  s.command .get b <| s.peekAt b k.toNat

/-- `REMOVE n` (R123). -/
def execRemove (b : BufSel) (n : Half) (s : State) : Result :=
  s.command .get b <|
    if (s.buf b).count < n.toNat then .next (s.refuse .nodata)
    else .next ((s.setGet b ((s.buf b).add (s.buf b).get.toNat n.toNat)).ret .none n.toNat 0)

/-- `RSPAN` (R124). -/
def execRspan (b : BufSel) (s : State) : Result :=
  s.command .get b <| .next (s.ret .none (s.buf b).get.toNat (s.buf b).readSpan)

/-- `DRD off` (R128). -/
def execDrd (b : BufSel) (off : Half) (s : State) : Result :=
  s.command .get b <|
    if (s.buf b).cap.toNat ≤ off.toNat then .next (s.refuse .range)
    else s.withByte b off.toNat fun v t => .next (t.ret .none v.toNat 0)

end Sys2Proof.Machine
end

