-- ==== Sys2Proof/Machine/Shadow.lean ====
section
/-! DEFINITION. ShadowCursor, the speculative write cursor: the three operations of 41_shadow.md. -/

namespace Sys2Proof.Machine

/-- `SH_BEGIN` (R151). -/
def execShBegin (b : BufSel) (s : State) : Result :=
  s.command .put b <|
    .next ((s.setBuf b { s.buf b with cur := (s.buf b).put, shv := true }).ret .none (s.buf b).put.toNat 0)

/-- `cur <- n` (10_state.md R29). -/
def State.setCur (s : State) (b : BufSel) (n : Nat) : State := s.setBuf b { s.buf b with cur := half n }

/-- `SH_WRITE v` (R152). -/
def execShWrite (b : BufSel) (v : Byte) (s : State) : Result :=
  s.command .put b <|
    if !(s.buf b).shv then .next (s.refuse .notxn)
    else if (s.buf b).inc (s.buf b).cur.toNat = (s.buf b).get.toNat then .next (s.refuseNoSpace b)
    else
      s.withWrite b (s.buf b).cur.toNat v fun t =>
        .next ((t.setCur b ((t.buf b).inc (t.buf b).cur.toNat)).ret .none 1 0)

/-- `SH_COMMIT`: one write of `put` publishes every shadow byte (R153). -/
def execShCommit (b : BufSel) (s : State) : Result :=
  s.command .put b <|
    if !(s.buf b).shv then .next (s.refuse .notxn)
    else
      .next ((s.setBuf b { s.buf b with put := (s.buf b).cur, shv := false }).ret .none (s.buf b).cur.toNat
        (s.buf b).shadowed)

end Sys2Proof.Machine
end

