-- ==== Sys2Proof/Machine/Dispatch.lean ====
section
/-! DEFINITION. The meaning of each instruction, one arm per constructor of `Instr`. -/

namespace Sys2Proof.Machine

def exec (i : Instr) (s : State) : Host.Outcome State Fault Refusal :=
  match i with
  | .init b cap typ fmt => Sys2Proof.Machine.execInit b cap typ fmt s
  | .isempty b => Sys2Proof.Machine.execIsempty b s
  | .isfull b => Sys2Proof.Machine.execIsfull b s
  | .count b => Sys2Proof.Machine.execCount b s
  | .free b => Sys2Proof.Machine.execFree b s
  | .putb b v => Sys2Proof.Machine.execPutb b v s
  | .putbu b v => Sys2Proof.Machine.execPutbu b v s
  | .getb b => Sys2Proof.Machine.execGetb b s
  | .peekb b => Sys2Proof.Machine.execPeekb b s
  | .peekat b k => Sys2Proof.Machine.execPeekat b k s
  | .remove b n => Sys2Proof.Machine.execRemove b n s
  | .rspan b => Sys2Proof.Machine.execRspan b s
  | .wspan b => Sys2Proof.Machine.execWspan b s
  | .geterr b => Sys2Proof.Machine.execGeterr b s
  | .clrerr b => Sys2Proof.Machine.execClrerr b s
  | .drd b off => Sys2Proof.Machine.execDrd b off s
  | .shBegin b => Sys2Proof.Machine.execShBegin b s
  | .shWrite b v => Sys2Proof.Machine.execShWrite b v s
  | .shCommit b => Sys2Proof.Machine.execShCommit b s
  | .pktPut b payload => Sys2Proof.Machine.execPktPut b payload s
  | .pktHas b => Sys2Proof.Machine.execPktHas b s
  | .pktGetc b => Sys2Proof.Machine.execPktGetc b s
  | .encData b v => Sys2Proof.Machine.execEncData b v s
  | .encCtrl b c => Sys2Proof.Machine.execEncCtrl b c s
  | .encQuote b => Sys2Proof.Machine.execEncQuote b s
  | .encLit b v => Sys2Proof.Machine.execEncLit b v s
  | .decPeek b => Sys2Proof.Machine.execDecPeek b s
  | .decGet b => Sys2Proof.Machine.execDecGet b s
  | .decPeekl b => Sys2Proof.Machine.execDecPeekl b s
  | .decGetl b => Sys2Proof.Machine.execDecGetl b s
  | .pdWriteb v => Sys2Proof.Machine.execPdWriteb v s
  | .pdIsbusy => Sys2Proof.Machine.execPdIsbusy s
  | .pdStatus => Sys2Proof.Machine.execPdStatus s
  | .pdClrerr => Sys2Proof.Machine.execPdClrerr s
  | .evRxirq => Sys2Proof.Machine.execEvRxirq s
  | .evTxirq => Sys2Proof.Machine.execEvTxirq s
  | .evTask => Sys2Proof.Machine.execEvTask s

end Sys2Proof.Machine
end

