-- ==== Sys2Proof/Machine/Micro.lean ====
section
/-! DEFINITION. The micro-steps of an operation or an event in progress, each one step (20_memory.md R58, R60; 10_state.md
R38 (b)). -/

namespace Sys2Proof.Machine

/-- After a micro-step: the response if it was the last one (70_reset_and_hazards.md R290). -/
def State.done (s : State) : Result := .next s.settle

/-- One iteration of the receive drain, which goes on (44_portdriver.md R216). -/
def State.drainRound (s : State) : Result :=
  { s with laneI := { s.laneI with todo := .drain :: s.laneI.todo } }.drainByte

/-- What a micro-step does, once it is taken off the list of the stepping agent. -/
def State.microStep (s : State) : Micro → Result
  | .uput b v => s.withPut b v State.done
  | .fill b => s.withFill b State.done
  | .kick => s.withIdleKick State.done
  | .pktHas b => s.pktHasRound b
  | .pktGetc b => s.pktGetcRound b
  | .drain => s.drainRound

/-- The agent takes its next pending micro-step. A faulted engine is frozen: it drops it (60_exceptions.md R244). -/
def runMicro (a : Agent) (s : State) : Result :=
  match (s.lane a).todo with
  | [] => .next s
  | m :: rest =>
    let t := { s.setLane a { s.lane a with todo := rest } with actor := a }
    if s.fault then .next (s.setLane a (s.lane a).cancel) else t.microStep m

end Sys2Proof.Machine
end

