-- ==== Sys2Proof/Machine/Schedule.lean ====
section
/-! DEFINITION. What the next step is: whose turn it is, what it takes from the environment, and what waits (20_memory.md R58,
R59; 44_portdriver.md R225; 60_exceptions.md R247, R248, R250; 70_reset_and_hazards.md R270, R272). -/

namespace Sys2Proof.Machine

open Sys2Proof.Config

/-- The agent of a port (R254). -/
def Port.agent : Port → Agent
  | .p => .p
  | .g => .g
  | .h => .h

/-- The agents of each kind of engine (R225, R254). -/
def hasAgent (kind : EngineKind) (a : Agent) : Bool :=
  match kind, a with
  | .bufferEngine, .p => true
  | .bufferEngine, .g => true
  | .portEngine, .h => true
  | .portEngine, .irq => true
  | _, _ => false

/-- The strobe served first: interrupts before the task poll, the two interrupts in the order that `txFirst` says (R248). -/
def pickStrobe (v : BitVec 3) (txFirst : Bool) : BitVec 3 :=
  if v.getLsbD 1 && (txFirst || !v.getLsbD 0) then 0b010#3
  else if v.getLsbD 0 then 0b001#3
  else v &&& 0b100#3

/-- The agent that takes an input; none for a move of the environment. -/
def Input.agent : Input → Option Agent
  | .cmd port _ _ => some port.agent
  | .ev v _ => if v = 0 then none else if v.getLsbD 0 || v.getLsbD 1 then some .irq else some .h
  | .go a => some a
  | .tick _ => none
  | .rx _ => none
  | .sent => none
  | .seterr _ => none
  | .periph _ => none
  | .reset => none

/-- The reset input: every register of the engine takes its reset value, every pending micro-step is dropped, no storage byte
is defined any more; what is outside the engine stays (R270, R271, 20_memory.md R66). -/
def State.engineReset (s : State) : State :=
  { State.resetWith s.par with per := s.per, now := s.now, inputs := s.inputs, draws := s.draws }

/-- The moves of the reference peripheral, and any other move of the peripheral (44_portdriver.md R226; U23). -/
def Peripheral.move (q : Peripheral) : Input → Peripheral
  | .rx v => { q with rxq := q.rxq ++ [v] }
  | .sent =>
    match q.txreg with
    | some v => { q with txlog := q.txlog ++ [v], txreg := none }
    | none => q
  | .seterr f =>
    { q with overrun := q.overrun || f.getLsbD 0, framing := q.framing || f.getLsbD 1, parity := q.parity || f.getLsbD 2 }
  | .periph r => r
  | .cmd .. => q
  | .ev .. => q
  | .go _ => q
  | .tick _ => q
  | .reset => q

/-- A move of the environment: no agent of the engine steps. -/
def State.outside (s : State) (i : Input) : State :=
  match i with
  | .tick n => { s with now := n }
  | .reset => s.engineReset
  | i => { s with per := s.per.move i }

/-- The receive drain ends at the step that finds `hasRxByte` false (44_portdriver.md R216). -/
def State.endDrain (s : State) : State :=
  if s.per.hasRx then s else { s with laneI := { s.laneI with todo := [] } }

/-- The agent has a micro-step pending. -/
def State.pending (s : State) (a : Agent) : Bool := (s.lane a).todo != []

/-- What a step does. -/
inductive Plan where
  | stop (r : Refusal)                   -- there is no such engine or input
  | done (s : State)                     -- a move of the environment, or nothing
  | micro (a : Agent) (s : State)        -- an agent takes its next pending micro-step
  | run (f : Frame) (s : State)          -- an operation or an event is accepted
deriving DecidableEq, Repr

/-- No input is left: what is pending goes on, the interrupt agent first; otherwise the block waits (R272). -/
def State.planIdle (s : State) : Plan :=
  if s.pending .irq then .micro .irq s
  else if s.pending .p then .micro .p s
  else if s.pending .h then .micro .h s
  else if s.pending .g then .micro .g s
  else .done s

/-- The turn of the agent `a`, with the input `i` and the inputs `rest` after it. An interrupt event in progress goes first
(R225); an agent with a micro-step pending takes that first, and what else the input asks for waits (R250). -/
def State.planAgent (s : State) (a : Agent) (i : Input) (rest : List Input) : Plan :=
  if s.pending .irq && a != .irq then .micro .irq s
  else if s.pending a then .micro a (if i = .go a then { s with inputs := rest } else s)
  else
    match i with
    | .cmd _ w beats =>
      if beats.length = beatCount w then .run (.cmd w beats) { s with inputs := rest, actor := a }
      else .stop .strayBeats
    | .ev v txFirst =>
      let e := pickStrobe v txFirst
      .run (.ev e) { s with
        inputs := if v = e then rest else .ev (v &&& ~~~e) txFirst :: rest
        actor := a }
    | _ => .done { s with inputs := rest }

/-- What the next step does. -/
def State.plan (s : State) : Plan :=
  if s.par.ok = false then .stop .badInstance
  else
    match s.inputs with
    | [] => s.endDrain.planIdle
    | i :: rest =>
      match i.agent with
      | none => .done ({ s with inputs := rest }.outside i)
      | some a => if hasAgent s.par.kind a then s.endDrain.planAgent a i rest else .stop .noSuchInput

/-- The port on which a frame is presented when the model is asked to run it: `H`, or the port of a BufferEngine that owns
the operation's side (R224, R251). -/
def fetchPort (kind : EngineKind) (f : Frame) : Port :=
  match kind with
  | .portEngine => .h
  | .bufferEngine =>
    match decode f with
    | .ok i => if sideOf i = .get then .g else .p
    | .error _ => .p

/-- The frame comes next, and nothing is pending before it. -/
def State.placeFrame (s : State) (f : Frame) : State :=
  { s with
    laneP := s.laneP.cancel, laneG := s.laneG.cancel, laneH := s.laneH.cancel, laneI := s.laneI.cancel
    inputs := (match f with
      | .cmd w beats => Input.cmd (fetchPort s.par.kind f) w beats
      | .ev v => Input.ev v false) :: s.inputs }

end Sys2Proof.Machine
end

