-- ==== Sys2Proof/Machine/Step.lean ====
section
/-! DEFINITION. One step of the machine (20_memory.md R58), and where the host's test words are placed. -/

namespace Sys2Proof.Machine

/-- One step: a move of the environment, a micro-step, or an operation or event that is decoded and executed; a word that is
no operation is answered with ILLEGAL (30_encoding.md R89, R90). -/
def step (s : State) : Host.Outcome State Fault Refusal :=
  match s.plan with
  | .stop r => .refused r
  | .done t => .next t
  | .micro a t => runMicro a t
  | .run f t =>
    match decode f with
    | .ok i => exec i t
    | .error _ => .next t.illegalWord

/-- `s` with the instruction of a table word placed as the next input, nothing being pending before it: on port `H` of a
PortEngine, on the port that owns its side in a BufferEngine, or as an event strobe. -/
def State.withFetchWord (s : State) (nbits w : Nat) : State := s.placeFrame (tableFrame nbits w)

end Sys2Proof.Machine
end

