-- ==== Sys2Proof/Safety.lean ====
section
/-! DEFINITION. What claims about the engine are stated with: when a command passes the entry checks, the bytes a buffer
holds, and the invariant that every step keeps (10_state.md R21, R24 to R29, R31; 20_memory.md R61, R68; 44_portdriver.md R227). -/

namespace Sys2Proof.Machine

open Sys2Proof.Config

/-! ## Entry -/

/-- The checks (1) to (3) of 30_encoding.md R90 pass: no fault, a word that is legal here, on a port that owns the side. -/
abbrev State.accepts (s : State) (side : Side) (b : BufSel) : Prop :=
  s.fault = false ∧ illegalHere s.par.kind side b = false ∧ portAccepts s.par.kind s.actor side b = true

/-- The checks (1) to (4) of R90 pass: those of `accepts`, and the buffer is initialised. -/
abbrev State.ready (s : State) (side : Side) (b : BufSel) : Prop :=
  s.accepts side b ∧ (s.buf b).cap ≠ 0

/-! ## Held bytes -/

/-- The bytes held, oldest first; `none` stands for one that nothing has written since reset (R25, R66). -/
def Buffer.held (q : Buffer) : List (Option Byte) :=
  (List.range q.count).map fun k => Memory.read q.store (q.add q.get.toNat k)

/-- The offset lies in the held region (R25). -/
abbrev Buffer.holds (q : Buffer) (off : Nat) : Prop := ∃ k, k < q.count ∧ off = q.add q.get.toNat k

/-! ## The invariant -/

/-- The offsets are below `cap` once the buffer is initialised (R24); before that nothing has moved them (R21). -/
abbrev Buffer.offsetsOk (q : Buffer) : Prop :=
  (q.cap ≠ 0 → q.put.toNat < q.cap.toNat ∧ q.get.toNat < q.cap.toNat) ∧
    (q.cap = 0 → q.put = 0 ∧ q.get = 0 ∧ q.shv = false)

/-- While a shadow transaction is open, `cur < cap` (R29), and the shadow bytes lie in free space (41_shadow.md R152). -/
abbrev Buffer.shadowOk (q : Buffer) : Prop :=
  q.shv = true → q.cur.toNat < q.cap.toNat ∧ q.shadowed ≤ q.free

/-- `cap` is 0 or a value that `INIT` accepts (R21); the storage is in canonical form and has `STORE_SIZE` bytes (R31). -/
abbrev Buffer.storageOk (q : Buffer) (p : BufParams) (minCap : Nat) : Prop :=
  (q.cap ≠ 0 → minCap ≤ q.cap.toNat ∧ q.cap.toNat ≤ p.storeSize) ∧ Memory.wf q.store ∧
    ∀ c ∈ q.store, c.1 < p.storeSize

/-- A Buffer that the rules can have produced. -/
abbrev Buffer.ok (q : Buffer) (p : BufParams) (minCap : Nat) : Prop :=
  q.offsetsOk ∧ q.shadowOk ∧ q.storageOk p minCap

/-- Only `uput` micro-steps on `b`, with the kick-start behind them if `kick` (20_memory.md R60, 44_portdriver.md R217). -/
def putTail (b : BufSel) (kick : Bool) : List Micro → Bool
  | [] => true
  | .uput c _ :: ms => c == b && putTail b kick ms
  | .kick :: ms => kick && ms == []
  | .fill _ :: _ => false
  | .pktHas _ :: _ => false
  | .pktGetc _ :: _ => false
  | .drain :: _ => false

/-- What a producer of `b` can have pending: at most one filler, then bytes (42_framing.md R164). -/
def putList (b : BufSel) (kick : Bool) : List Micro → Bool
  | .fill c :: ms => c == b && putTail b false ms
  | ms => putTail b kick ms

/-- What a consumer of `b` can have pending: the next round of `PKT_HAS` or `PKT_GETC` (42_framing.md R165, R166). -/
def getList (b : BufSel) : List Micro → Bool
  | [] => true
  | [.pktHas c] => c == b
  | [.pktGetc c] => c == b
  | _ => false

/-- How many bytes the pending micro-steps will store. -/
def putsIn : List Micro → Nat
  | [] => 0
  | .uput _ _ :: ms => putsIn ms + 1
  | _ :: ms => putsIn ms

/-- The space that a producer's entry check confirmed is still there for its pending micro-steps (20_memory.md R61). -/
def Buffer.room (q : Buffer) (ms : List Micro) : Prop :=
  match ms with
  | .fill _ :: rest => q.get.toNat ≤ q.put.toNat ∧ putsIn rest + 1 ≤ q.get.toNat
  | ms => putsIn ms ≤ q.free

/-- A producer's pending micro-steps fit its buffer, which is initialised and has no open transaction (41_shadow.md R154). -/
def Buffer.putsOk (q : Buffer) (b : BufSel) (kick : Bool) (ms : List Micro) : Prop :=
  putList b kick ms = true ∧ q.room ms ∧ (ms ≠ [] → q.cap ≠ 0 ∧ q.shv = false)

/-- What the agents of each kind of engine can have pending (20_memory.md R60, R62; 44_portdriver.md R225). The receive drain
is the only producer of `RX` in a PortEngine, so no transaction is open there (41_shadow.md R154). -/
def State.lanesOk (s : State) : Prop :=
  match s.par.kind with
  | .bufferEngine =>
    s.laneH.todo = [] ∧ s.laneI.todo = [] ∧ s.tx.putsOk .tx false s.laneP.todo ∧ getList .tx s.laneG.todo = true
  | .portEngine =>
    s.laneP.todo = [] ∧ s.laneG.todo = [] ∧ (s.laneI.todo = [] ∨ s.laneI.todo = [.drain]) ∧ s.rx.shv = false ∧
      (s.tx.putsOk .tx true s.laneH.todo ∨ getList .rx s.laneH.todo = true)

/-- Nothing is pending. -/
abbrev State.quiet (s : State) : Prop :=
  s.laneP.todo = [] ∧ s.laneG.todo = [] ∧ s.laneH.todo = [] ∧ s.laneI.todo = []

/-- The invariant: the parameters meet their constraints (00_scope.md R6); both Buffers are as the rules leave them; every
pending micro-step has its space; a faulted engine has nothing pending (60_exceptions.md R244); `pstate` is never Stopping
(44_portdriver.md R223, R227 (a)). -/
def State.Inv (s : State) : Prop :=
  s.par.ok = true ∧ s.tx.ok s.par.tx s.par.minCap ∧ s.rx.ok s.par.rx s.par.minCap ∧ s.lanesOk ∧
    (s.fault = true → s.quiet) ∧ s.pstate ≠ .stopping

/-! ## What the environment may do -/

/-- An input that this kind of engine has, in its form: a command on a port of the engine, with the payload beats its word
announces (R86); an event of a PortEngine (R91). -/
def Input.fits (kind : EngineKind) : Input → Bool
  | .cmd port w beats => hasAgent kind port.agent && beats.length == beatCount w
  | .ev v _ => v == 0 || kind == .portEngine
  | .go a => hasAgent kind a
  | .tick _ => true
  | .rx _ => true
  | .sent => true
  | .seterr _ => true
  | .periph _ => true
  | .reset => true

/-- Every input still to come fits the engine. -/
abbrev State.inputsFit (s : State) : Prop := ∀ i ∈ s.inputs, i.fits s.par.kind = true

/-! ## Sequences of operations -/

/-- The response that the port of the stepping agent gave last (30_encoding.md R82). -/
abbrev State.answer (s : State) : Option Response := (s.lane s.actor).out

/-- The operations one after the other, with the response to each; `none` if one of them stops. -/
def execTrace : List Instr → State → Option (List (Option Response) × State)
  | [], s => some ([], s)
  | i :: is, s =>
    match exec i s with
    | .next t => (execTrace is t).map fun r => (t.answer :: r.1, r.2)
    | .fault _ => none
    | .refused _ => none

/-- The next `n` micro-steps of an agent, with no step of another agent between them (20_memory.md R60). -/
def runMicros : Nat → Agent → State → Result
  | 0, _, s => .next s
  | n + 1, a, s =>
    match runMicro a s with
    | .next t => runMicros n a t
    | .fault e => .fault e
    | .refused e => .refused e

/-! ## Codec -/

/-- A codec symbol (00_scope.md R11). -/
inductive CodecSymbol where
  | data (v : Byte)
  | control (c : Byte)
deriving DecidableEq, Repr

/-- The symbol is representable in the format (43_codec.md R182): a control code only in an escaped format, and not `ESC`. -/
def CodecSymbol.representable (f : Format) (esc : Byte) : CodecSymbol → Bool
  | .data _ => true
  | .control c => f.escaped && c != esc

/-- `enc(fmt, s)` (43_codec.md R182). -/
def CodecSymbol.bytes (f : Format) (esc : Byte) : CodecSymbol → List Byte
  | .data v => f.encData esc v
  | .control c => [esc, c]

/-- What a decode operation answers for the symbol, `n` stored bytes standing for it (43_codec.md R189). -/
def CodecSymbol.response (n : Nat) : CodecSymbol → Response
  | .data v => { st := .ok, kind := .data, a := half v.toNat, b := half n }
  | .control c => { st := .ok, kind := .ctrl, a := half c.toNat, b := half n }

end Sys2Proof.Machine
end

