-- ==== Sys2Proof/Certificates/Slice0/Obligations.lean ====
section
/-! DEFINITION. The statements for the provers. "An arm answers t" is written `exec i s = .next t`; `s.ready side b` says that
the entry checks of 30_encoding.md R90 (1) to (4) pass, and `q.offsetsOk` is the invariant of 10_state.md R24. -/

open Sys2Proof Sys2Proof.Machine Sys2Proof.Config

/-! ## Encoding -/

/-- Every instruction is read back from the frame that the encoder writes for it: no operand bit is dropped
(30_encoding.md R80, R81, R85 to R87, R91). -/
def Obligations.DecodeOfEncode : Prop :=
  ∀ i : Instr, i.wf = true → decode (encode i) = .ok i

/-- Every frame has at most one meaning, and the meaning determines the frame: what the decoder accepts is exactly what the
encoder writes, so no word has a second spelling (30_encoding.md R87, R89, R91). -/
def Obligations.EncodeOfDecode : Prop :=
  ∀ (f : Frame) (i : Instr), decode f = .ok i → i.wf = true ∧ encode i = f

/-- `match` and `mask` select the operation: an accepted word matches the row of its operation; a word that matches the row of
an operation, with the payload beats it announces, is accepted as an operation of that row (30_encoding.md R86, R87). -/
def Obligations.OpcodeMap : Prop :=
  (∀ (w : Word) (beats : List Byte) (i : Instr), decode (.cmd w beats) = .ok i →
      w &&& (opcodeRow i).2 = (opcodeRow i).1) ∧
    ∀ (w : Word) (beats : List Byte) (i : Instr), sideOf i ≠ .event → w &&& (opcodeRow i).2 = (opcodeRow i).1 →
      beats.length = beatCount w → ∃ j, decode (.cmd w beats) = .ok j ∧ opcodeRow j = opcodeRow i

/-- Words written out: command words from the field table of 30_encoding.md R80 and the rows of R87 decode to their operations;
a response word has the fields of R82, `ST[39:36] KIND[35:32] A[31:16] B[15:0]`, with the status codes of 60_exceptions.md R241
and the kind codes of 30_encoding.md R84. -/
def Obligations.SampleWords : Prop :=
  (decode (.cmd 0x0192FFFF#32 []) = .ok (.init .rx 65535 2 4) ∧ decode (.cmd 0x060000A1#32 []) = .ok (.putb .tx 0xA1) ∧
    decode (.cmd 0x0A800002#32 []) = .ok (.peekat .rx 2) ∧ decode (.cmd 0x190000AA#32 []) = .ok (.shWrite .tx 0xAA) ∧
    decode (.cmd 0x20000002#32 [0xDE, 0xAD]) = .ok (.pktPut .tx [0xDE, 0xAD]) ∧
    decode (.cmd 0x31000073#32 []) = .ok (.encCtrl .tx 0x73) ∧ decode (.cmd 0x39800000#32 []) = .ok (.decGet .rx) ∧
    decode (.cmd 0x4000005E#32 []) = .ok (.pdWriteb 0x5E) ∧ decode (.ev 0b100#3) = .ok .evTask ∧
    decode (.cmd 0x00000000#32 []) = .error (.badOpcode 0)) ∧
  (∀ r : Response, r.word.extractLsb' 36 4 = r.st.code ∧ r.word.extractLsb' 32 4 = r.kind.code ∧
    r.word.extractLsb' 16 16 = r.a ∧ r.word.extractLsb' 0 16 = r.b) ∧
  [Status.ok, .nospace, .format, .nodata, .range, .porterr, .malformed, .zerolen, .wrongctx, .uninit, .busy, .illegal, .fault,
    .notxn].map (fun st => st.code.toNat) = [0, 1, 2, 3, 4, 5, 6, 7, 8, 9, 10, 11, 12, 13] ∧
  [Kind.none, .data, .ctrl, .quote, .qclose].map (fun k => k.code.toNat) = [0, 1, 2, 3, 4]

/-! ## Reset and the invariant -/

/-- What the reset input does, in one step and from every state: every register of the engine takes its reset value, nothing
is pending, and no storage byte is defined (70_reset_and_hazards.md R270, R271; 10_state.md R43). That the stored bytes are
forgotten, that the parameters, the peripheral and the tick stay, and that reset is an input taken off a list, is the model's
choice (log entries 2 and 13). -/
def Obligations.ResetStep : Prop :=
  ∀ (s : State) (rest : List Input), s.par.ok = true → s.inputs = .reset :: rest →
    ∃ t, step s = .next t ∧ t.par = s.par ∧ t.inputs = rest ∧ t.per = s.per ∧ t.now = s.now ∧
      (∀ b, (t.buf b).cap = 0 ∧ (t.buf b).put = 0 ∧ (t.buf b).get = 0 ∧ (t.buf b).typ = .stream ∧
        (t.buf b).fmt = .none ∧ (t.buf b).err = false ∧ (t.buf b).cur = 0 ∧ (t.buf b).shv = false ∧
        ∀ off, Memory.read (t.buf b).store off = none) ∧
      t.fault = false ∧ t.pstate = .idle ∧ t.deadline = 0 ∧ t.toErr = false ∧ ∀ a, (t.lane a).todo = []

/-- The invariant holds right after reset, for every instance whose parameters meet their constraints. -/
def Obligations.ResetInvariant : Prop :=
  ∀ par : Params, par.ok = true → (State.resetWith par).Inv

/-- Every step keeps the invariant: offsets below the capacity, the shadow bytes in free space, the storage in canonical form,
the space of every pending micro-step, a faulted engine quiet, `pstate` never Stopping (10_state.md R24, R29, R31;
20_memory.md R61; 44_portdriver.md R223). -/
def Obligations.StepKeepsInvariant : Prop :=
  ∀ s t : State, s.Inv → step s = .next t → t.Inv

/-- The machine never stops: in a state that meets the invariant, with inputs that fit the engine, a step answers a next
state, whatever the words, the held bytes and the free bytes are. -/
def Obligations.StepProgress : Prop :=
  ∀ s : State, s.Inv → s.inputsFit → ∃ t, step s = .next t

/-- No step writes an offset of the held region (20_memory.md R68); reset, after which no storage byte is defined, is left
out. -/
def Obligations.HeldBytesKept : Prop :=
  ∀ (s t : State), s.Inv → s.inputs.head? ≠ some .reset → step s = .next t →
    ∀ b off, (s.buf b).holds off → Memory.read (t.buf b).store off = Memory.read (s.buf b).store off

/-! ## The step -/

/-- A step runs the decoded operation: where a command is next on a port of the engine, its agent has nothing pending and no
interrupt event goes on, the step is `exec` of it, the command taken off the inputs and its agent stepping; a strobe raised alone
likewise. An event goes on while its drain is pending and the peripheral has a byte to read (44_portdriver.md R216; log entry 8).
An interrupt needs nothing of the task agent: it falls between two micro-steps of a host command too (44_portdriver.md R225,
60_exceptions.md R248); only `EV_TASK` waits for them. That inputs are a list is the model's choice (log entries 2, 10). -/
def Obligations.StepRunsDecoded : Prop :=
  (∀ (s : State) (port : Port) (w : Word) (beats : List Byte) (rest : List Input) (i : Instr), s.par.ok = true →
    s.inputs = .cmd port w beats :: rest → hasAgent s.par.kind port.agent = true →
    (s.laneI.todo = [] ∨ s.per.hasRx = false) → (s.lane port.agent).todo = [] → decode (.cmd w beats) = .ok i →
      step s = exec i { s with inputs := rest, actor := port.agent, laneI := { s.laneI with todo := [] } }) ∧
  (∀ (s : State) (i : Instr) (v : BitVec 3) (txFirst : Bool) (rest : List Input), s.par.ok = true →
    s.par.kind = .portEngine → s.inputs = .ev v txFirst :: rest → (s.laneI.todo = [] ∨ s.per.hasRx = false) →
    decode (.ev v) = .ok i → (i = .evTask → s.laneH.todo = []) →
      step s = exec i { s with
        inputs := rest
        actor := if i = .evTask then .h else .irq
        laneI := { s.laneI with todo := [] } })

/-- A word that is no operation is answered with `ILLEGAL`, or with `FAULT` by a faulted engine, and changes nothing else
(30_encoding.md R89 (a), (b), R90 (1), (2)); its payload beats are taken (they come with the word: log entry
11). A receive drain that has found no byte any more does not hold it up (44_portdriver.md R216; log entry 8). -/
def Obligations.IllegalWords : Prop :=
  ∀ (s : State) (port : Port) (w : Word) (beats : List Byte) (rest : List Input) (e : DecodeError), s.par.ok = true →
    s.inputs = .cmd port w beats :: rest → hasAgent s.par.kind port.agent = true →
    (s.laneI.todo = [] ∨ s.per.hasRx = false) → (s.lane port.agent).todo = [] → beats.length = beatCount w →
    decode (.cmd w beats) = .error e →
      step s = .next (State.refuse (if s.fault then .fault else .illegal)
        { s with inputs := rest, actor := port.agent, laneI := { s.laneI with todo := [] } })

/-- Whose turn it is. An interrupt event in progress, while the peripheral has a byte to read, goes before everything else: a
command, a poll or a `go` of the task agent waits, a further interrupt is taken after it, and `go` of the interrupt agent is its
next iteration. Otherwise a port that still has micro-steps pending takes the next of them, and the command or the `EV_TASK` poll
behind it waits; `go` lets an agent take its next micro-step; of strobes raised together the interrupts are served before the task
poll, the two interrupts in either order, and what is not served yet stays raised; with nothing to do the block waits
(20_memory.md R59; 44_portdriver.md R214, R216, R225; 60_exceptions.md R248, R250; 70_reset_and_hazards.md R272). That the rest
stays raised, that `go` names the agent and that an ended drain costs no step are the model's choices (log entries 2, 8, 10,
12). -/
def Obligations.Turns : Prop :=
  (∀ s : State, s.par.ok = true → s.laneI.todo ≠ [] → s.per.hasRx = true →
    (∀ port w beats rest, s.inputs = .cmd port w beats :: rest → hasAgent s.par.kind port.agent = true →
      step s = runMicro .irq s) ∧
    (∀ v txFirst rest, s.inputs = .ev v txFirst :: rest → v ≠ 0 → s.par.kind = .portEngine → step s = runMicro .irq s) ∧
    ∀ a rest, s.inputs = .go a :: rest → hasAgent s.par.kind a = true →
      step s = runMicro .irq (if a = .irq then { s with inputs := rest } else s)) ∧
  (∀ s : State, s.par.ok = true → (s.laneI.todo = [] ∨ s.per.hasRx = false) →
    let t := { s with laneI := { s.laneI with todo := [] } }
    (∀ port w beats rest, s.inputs = .cmd port w beats :: rest → hasAgent s.par.kind port.agent = true →
      (s.lane port.agent).todo ≠ [] → step s = runMicro port.agent t) ∧
    (∀ txFirst rest, s.inputs = .ev 0b100#3 txFirst :: rest → s.par.kind = .portEngine → s.laneH.todo ≠ [] →
      step s = runMicro .h t) ∧
    (∀ a rest, s.inputs = .go a :: rest → hasAgent s.par.kind a = true → a ≠ .irq → (s.lane a).todo ≠ [] →
      step s = runMicro a { t with inputs := rest }) ∧
    (∀ txFirst rest, s.par.kind = .portEngine →
      (s.inputs = .ev 0b011#3 txFirst :: rest → step s = exec (if txFirst then .evTxirq else .evRxirq)
        { t with inputs := .ev (if txFirst then 0b001#3 else 0b010#3) txFirst :: rest, actor := .irq }) ∧
      (s.inputs = .ev 0b101#3 txFirst :: rest →
        step s = exec .evRxirq { t with inputs := .ev 0b100#3 txFirst :: rest, actor := .irq }) ∧
      (s.inputs = .ev 0b110#3 txFirst :: rest →
        step s = exec .evTxirq { t with inputs := .ev 0b100#3 txFirst :: rest, actor := .irq }) ∧
      (s.inputs = .ev 0b111#3 txFirst :: rest → step s = exec (if txFirst then .evTxirq else .evRxirq)
        { t with inputs := .ev (if txFirst then 0b101#3 else 0b110#3) txFirst :: rest, actor := .irq })) ∧
    (s.inputs = [] → (∀ a, a ≠ .irq → (s.lane a).todo = []) → step s = .next t))

/-- The moves of the environment: the tick, and the reference peripheral's `rx`, `sent` and `seterr`; nothing of the engine
changes (10_state.md R36, R37; 44_portdriver.md R226; that they are inputs in one sequence is the model's choice, log entry 2). -/
def Obligations.EnvironmentMoves : Prop :=
  ∀ (s : State) (rest : List Input), s.par.ok = true →
    (∀ n, s.inputs = .tick n :: rest → step s = .next { s with inputs := rest, now := n }) ∧
    (∀ v, s.inputs = .rx v :: rest →
      step s = .next { s with inputs := rest, per := { s.per with rxq := s.per.rxq ++ [v] } }) ∧
    (∀ v, s.per.txreg = some v → s.inputs = .sent :: rest →
      step s = .next { s with inputs := rest, per := { s.per with txlog := s.per.txlog ++ [v], txreg := none } }) ∧
    (∀ f : BitVec 3, s.inputs = .seterr f :: rest →
      step s = .next { s with
        inputs := rest
        per := { s.per with
          overrun := s.per.overrun || f.getLsbD 0
          framing := s.per.framing || f.getLsbD 1
          parity := s.per.parity || f.getLsbD 2 } })

/-! ## Entry checks -/

/-- Which operations a port accepts: on a BufferEngine `P` takes put-side and either-side operations, `G` get-side and
either-side ones; on a PortEngine `H` takes either-side operations, the put side of `TX`, the get side of `RX` and the `PD_*`
operations, nothing else (60_exceptions.md R251; 44_portdriver.md R224). And the first checks of every command, in their order:
`FAULT`, `ILLEGAL` (`BUF = 1` or a `PD_*` operation on a stand-alone BufferEngine), `WRONGCTX`, `UNINIT` (not for `INIT`,
`PD_STATUS`, `PD_CLRERR`); the first that fails gives the status, and nothing but the response changes (30_encoding.md R89 (c),
R90; 40_ringstore.md R110; 60_exceptions.md R243). -/
def Obligations.EntryChecks : Prop :=
  ((∀ side b, portAccepts .bufferEngine .p side b = true ↔ side = .put ∨ side = .either) ∧
  (∀ side b, portAccepts .bufferEngine .g side b = true ↔ side = .get ∨ side = .either) ∧
  ∀ side b, portAccepts .portEngine .h side b = true ↔
    side = .either ∨ side = .host ∨ (side = .put ∧ b = .tx) ∨ (side = .get ∧ b = .rx)) ∧
  (∀ (i : Instr) (s : State), sideOf i ≠ .event →
    (s.fault = true → exec i s = .next (s.refuse .fault)) ∧
    (s.fault = false → s.par.kind = .bufferEngine → (bufOf i = .rx ∨ sideOf i = .host) →
      exec i s = .next (s.refuse .illegal)) ∧
    (s.fault = false → (s.par.kind = .bufferEngine → bufOf i = .tx ∧ sideOf i ≠ .host) →
      portAccepts s.par.kind s.actor (sideOf i) (bufOf i) = false → exec i s = .next (s.refuse .wrongctx)) ∧
    (s.accepts (sideOf i) (bufOf i) → (s.buf (bufOf i)).cap = 0 →
      (∀ b cap typ fmt, i ≠ .init b cap typ fmt) → i ≠ .pdStatus → i ≠ .pdClrerr →
      exec i s = .next (s.refuse .uninit)))

/-! ## RingStore -/

/-- `INIT` (40_ringstore.md R113): reserved type or format and a capacity out of range give `RANGE`, another agent's pending
micro-step gives `BUSY`; otherwise the configuration is written, offsets and flags become 0, and the storage, `pstate`,
`deadline`, `toErr` and the other buffer stay (R273). That `RANGE` comes before `BUSY`, as in R113's pseudocode, is a deduction
(log entry 6). -/
def Obligations.InitRule : Prop :=
  (∀ b cap (typ : BitVec 2) (fmt : BitVec 3), encode (.init b cap typ fmt) =
    .cmd (0x01000000#32 ||| b.word ||| fmt.setWidth 32 <<< 18 ||| typ.setWidth 32 <<< 16 ||| cap.setWidth 32) []) ∧
  ∀ (b : BufSel) (cap : Half) (typ : BitVec 2) (fmt : BitVec 3) (s : State), s.accepts .either b →
    (typ = 3 ∨ 5 ≤ fmt.toNat ∨ cap = 0 ∨ cap.toNat < s.par.minCap ∨ (s.par.buf b).storeSize < cap.toNat →
      exec (.init b cap typ fmt) s = .next (s.refuse .range)) ∧
    ∀ t f, BufType.ofCode typ = some t → Format.ofCode fmt = some f → cap ≠ 0 → s.par.minCap ≤ cap.toNat →
      cap.toNat ≤ (s.par.buf b).storeSize →
      ((∃ a, a ≠ s.actor ∧ ∃ m ∈ (s.lane a).todo, m.target = b) →
        exec (.init b cap typ fmt) s = .next (s.refuse .busy)) ∧
      ((∀ a, a ≠ s.actor → ∀ m ∈ (s.lane a).todo, m.target ≠ b) →
        exec (.init b cap typ fmt) s = .next ((s.setBuf b { s.buf b with
          cap := cap, typ := t, fmt := f, put := 0, get := 0, err := false, cur := 0, shv := false }).ret .none 0 0))

/-- `ISEMPTY`, `ISFULL`, `COUNT`, `FREE`: the value answered, computed from the offsets; nothing else changes
(40_ringstore.md R114 to R117). -/
def Obligations.CountQueries : Prop :=
  (∀ b, encode (.isempty b) = .cmd (0x02000000#32 ||| b.word) [] ∧ encode (.isfull b) = .cmd (0x03000000#32 ||| b.word) [] ∧
    encode (.count b) = .cmd (0x04000000#32 ||| b.word) [] ∧ encode (.free b) = .cmd (0x05000000#32 ||| b.word) []) ∧
  ∀ (b : BufSel) (s : State), s.ready .either b → (s.buf b).offsetsOk →
    let put := (s.buf b).put.toNat
    let get := (s.buf b).get.toNat
    let cap := (s.buf b).cap.toNat
    let count := if get ≤ put then put - get else put + cap - get
    exec (.isempty b) s = .next (s.ret .none (if put = get then 1 else 0) 0) ∧
    exec (.isfull b) s = .next (s.ret .none (if (put + 1) % cap = get then 1 else 0) 0) ∧
    exec (.count b) s = .next (s.ret .none count 0) ∧
    exec (.free b) s = .next (s.ret .none (cap - 1 - count) 0) ∧
    count ≤ cap - 1

/-- `GETERR` answers the sticky error flag; `CLRERR` clears it and writes nothing else (40_ringstore.md R126, R127). -/
def Obligations.ErrorFlagOps : Prop :=
  (∀ b, encode (.geterr b) = .cmd (0x0E000000#32 ||| b.word) [] ∧ encode (.clrerr b) = .cmd (0x0F000000#32 ||| b.word) []) ∧
  ∀ (b : BufSel) (s : State), s.ready .either b →
    exec (.geterr b) s = .next (s.ret .none (if (s.buf b).err then 1 else 0) 0) ∧
    exec (.clrerr b) s = .next ((s.setBuf b { s.buf b with err := false }).ret .none 0 0)

/-- `PUTB` (40_ringstore.md R118; `BUSY`: 41_shadow.md R154). -/
def Obligations.PutbRule : Prop :=
  (∀ b (v : Byte), encode (.putb b v) = .cmd (0x06000000#32 ||| b.word ||| v.setWidth 32) []) ∧
  ∀ (b : BufSel) (v : Byte) (s : State), s.ready .put b → (s.buf b).offsetsOk →
    let q := s.buf b
    exec (.putb b v) s = .next
      (if q.shv then s.refuse .busy
      else if (q.put.toNat + 1) % q.cap.toNat = q.get.toNat then (s.setBuf b { q with err := true }).raise .nospace 0 0
      else (s.setBuf b { q with
        store := Memory.write q.store q.put.toNat v
        put := half ((q.put.toNat + 1) % q.cap.toNat) }).ret .none 1 0)

/-- `PUTBU` (40_ringstore.md R119): with space it has the effect of a successful `PUTB`; on a full buffer the fault latch sets,
every pending micro-step is dropped, and no buffer changes (60_exceptions.md R244). -/
def Obligations.PutbuRule : Prop :=
  (∀ b (v : Byte), encode (.putbu b v) = .cmd (0x07000000#32 ||| b.word ||| v.setWidth 32) []) ∧
  ∀ (b : BufSel) (v : Byte) (s : State), s.ready .put b → (s.buf b).offsetsOk →
    let q := s.buf b
    (q.shv = true → exec (.putbu b v) s = .next (s.refuse .busy)) ∧
    (q.shv = false → (q.put.toNat + 1) % q.cap.toNat ≠ q.get.toNat →
      exec (.putbu b v) s = .next ((s.setBuf b { q with
        store := Memory.write q.store q.put.toNat v
        put := half ((q.put.toNat + 1) % q.cap.toNat) }).ret .none 1 0) ∧
      exec (.putbu b v) s = exec (.putb b v) s) ∧
    (q.shv = false → (q.put.toNat + 1) % q.cap.toNat = q.get.toNat →
      ∃ t, exec (.putbu b v) s = .next t ∧ t.fault = true ∧ t.answer = some ⟨.fault, .none, 0, 0⟩ ∧ t.tx = s.tx ∧
        t.rx = s.rx ∧ t.pstate = s.pstate ∧ t.deadline = s.deadline ∧ t.toErr = s.toErr ∧ t.per = s.per ∧
        ∀ a, (t.lane a).todo = [])

/-- `WSPAN` answers `put` and the greatest number of bytes that can be written from there without passing the physical end and
without making the buffer appear empty; `RSPAN` answers `get` and the greatest number of held bytes at consecutive offsets from
there (40_ringstore.md R124, R125). -/
def Obligations.SpanRules : Prop :=
  ((∀ b, encode (.wspan b) = .cmd (0x0D000000#32 ||| b.word) []) ∧
  ∀ (b : BufSel) (s : State), s.ready .put b → (s.buf b).offsetsOk →
    let q := s.buf b
    let len := if q.get.toNat ≤ q.put.toNat then q.cap.toNat - q.put.toNat - (if q.get = 0 then 1 else 0)
      else q.get.toNat - q.put.toNat - 1
    exec (.wspan b) s = .next (s.ret .none q.put.toNat len) ∧ len = min (q.cap.toNat - q.put.toNat) q.free) ∧
  ((∀ b, encode (.rspan b) = .cmd (0x0C000000#32 ||| b.word) []) ∧
  ∀ (b : BufSel) (s : State), s.ready .get b → (s.buf b).offsetsOk →
    let q := s.buf b
    let len := if q.get.toNat ≤ q.put.toNat then q.put.toNat - q.get.toNat else q.cap.toNat - q.get.toNat
    exec (.rspan b) s = .next (s.ret .none q.get.toNat len) ∧ len = min (q.cap.toNat - q.get.toNat) q.count)

/-- `GETB` (40_ringstore.md R120). `byteAt` and `afterRead` are the read of one storage byte. -/
def Obligations.GetbRule : Prop :=
  (∀ b, encode (.getb b) = .cmd (0x08000000#32 ||| b.word) []) ∧
  ∀ (b : BufSel) (s : State), s.ready .get b → (s.buf b).offsetsOk →
    let q := s.buf b
    exec (.getb b) s = .next
      (if q.put = q.get then s.refuse .nodata
      else ((s.afterRead b q.get.toNat).setBuf b { q with get := half ((q.get.toNat + 1) % q.cap.toNat) }).ret .none
        (s.byteAt b q.get.toNat).toNat 0)

/-- `PEEKB` and `PEEKAT`: the byte at distance `k` from the oldest one; the address wraps (40_ringstore.md R121, R122). -/
def Obligations.PeekRule : Prop :=
  (∀ b (k : Half), encode (.peekb b) = .cmd (0x09000000#32 ||| b.word) [] ∧
    encode (.peekat b k) = .cmd (0x0A000000#32 ||| b.word ||| k.setWidth 32) []) ∧
  ∀ (b : BufSel) (k : Half) (s : State), s.ready .get b → (s.buf b).offsetsOk →
    let q := s.buf b
    let off := (q.get.toNat + k.toNat) % q.cap.toNat
    exec (.peekat b k) s = .next
      (if q.count ≤ k.toNat then s.refuse .nodata
      else (s.afterRead b off).ret .none (s.byteAt b off).toNat 0) ∧
    exec (.peekb b) s = .next
      (if q.put = q.get then s.refuse .nodata
      else (s.afterRead b q.get.toNat).ret .none (s.byteAt b q.get.toNat).toNat 0)

/-- `REMOVE` (40_ringstore.md R123). -/
def Obligations.RemoveRule : Prop :=
  (∀ b (n : Half), encode (.remove b n) = .cmd (0x0B000000#32 ||| b.word ||| n.setWidth 32) []) ∧
  ∀ (b : BufSel) (n : Half) (s : State), s.ready .get b →
    let q := s.buf b
    exec (.remove b n) s = .next
      (if q.count < n.toNat then s.refuse .nodata
      else (s.setBuf b { q with get := half ((q.get.toNat + n.toNat) % q.cap.toNat) }).ret .none n.toNat 0)

/-- `DRD` reads any offset below the capacity, held or not (40_ringstore.md R128). A byte that has been written reads as it was
written, and nothing but the response changes; a byte that nothing has written reads as a free byte, and the next read of it is
another draw (20_memory.md R66, R67; how the draws are numbered is the model's choice, log entry 3). -/
def Obligations.DirectReads : Prop :=
  ((∀ b (off : Half), encode (.drd b off) = .cmd (0x10000000#32 ||| b.word ||| off.setWidth 32) []) ∧
  ∀ (b : BufSel) (off : Half) (s : State), s.ready .get b →
    exec (.drd b off) s = .next
      (if (s.buf b).cap.toNat ≤ off.toNat then s.refuse .range
      else (s.afterRead b off.toNat).ret .none (s.byteAt b off.toNat).toNat 0)) ∧
  (∀ (b : BufSel) (off : Half) (s : State), s.ready .get b → off.toNat < (s.buf b).cap.toNat →
    (∀ v, Memory.read (s.buf b).store off.toNat = some v → exec (.drd b off) s = .next (s.ret .none v.toNat 0)) ∧
    (Memory.read (s.buf b).store off.toNat = none →
      execTrace [.drd b off, .drd b off] s =
        some ([some ⟨.ok, .none, half (freeByte s.draws).toNat, 0⟩, some ⟨.ok, .none, half (freeByte (s.draws + 1)).toNat, 0⟩],
          { s with draws := s.draws + 2 }.ret .none (freeByte (s.draws + 1)).toNat 0)))

/-- The full law: full, no free byte, and `capacity − 1` bytes held say the same; empty and nothing held too; the number of held
bytes is `(put − get) mod cap` and the number of free ones `cap − 1 − count` (40_ringstore.md R130; 10_state.md R25). -/
def Obligations.FullLaw : Prop :=
  ∀ q : Buffer, q.offsetsOk → q.cap ≠ 0 →
    (q.isFull = true ↔ q.free = 0) ∧ (q.isFull = true ↔ q.count = q.cap.toNat - 1) ∧
      (q.isEmpty = true ↔ q.count = 0) ∧ q.count + q.free + 1 = q.cap.toNat ∧
      (q.count : Int) = ((q.put.toNat : Int) - q.get.toNat) % q.cap.toNat ∧ q.free = q.cap.toNat - 1 - q.count

/-- A buffer of capacity 1 is always empty and always full; every put is refused and sets `err`, every get is refused, both
spans have length 0 (40_ringstore.md R131). -/
def Obligations.CapacityOne : Prop :=
  ∀ (b : BufSel) (s : State), (s.buf b).offsetsOk → (s.buf b).cap = 1 →
    (s.ready .either b → exec (.isempty b) s = .next (s.ret .none 1 0) ∧ exec (.isfull b) s = .next (s.ret .none 1 0) ∧
      exec (.count b) s = .next (s.ret .none 0 0) ∧ exec (.free b) s = .next (s.ret .none 0 0)) ∧
    (s.ready .put b → exec (.wspan b) s = .next (s.ret .none 0 0) ∧
      ((s.buf b).shv = false → ∀ v, exec (.putb b v) s =
        .next ((s.setBuf b { s.buf b with err := true }).raise .nospace 0 0))) ∧
    (s.ready .get b → exec (.rspan b) s = .next (s.ret .none 0 0) ∧ exec (.getb b) s = .next (s.refuse .nodata))

/-- The buffer is a queue: an accepted `PUTB` appends its byte to the held bytes, an accepted `GETB` takes the oldest one off
and answers it, `REMOVE n` takes `n` off, `PEEKAT k` answers the one at distance `k`, `COUNT` answers their number
(10_state.md R25; 40_ringstore.md R118, R120, R122, R123, R129). -/
def Obligations.QueueLaws : Prop :=
  ∀ (b : BufSel) (s : State), (s.buf b).offsetsOk →
    (∀ v, s.ready .put b → (s.buf b).shv = false → (s.buf b).isFull = false →
      ∃ t, exec (.putb b v) s = .next t ∧ (t.buf b).held = (s.buf b).held ++ [some v]) ∧
    (∀ v l, s.ready .get b → (s.buf b).held = some v :: l →
      ∃ t, exec (.getb b) s = .next t ∧ t.answer = some ⟨.ok, .none, half v.toNat, 0⟩ ∧ (t.buf b).held = l) ∧
    (∀ n : Half, s.ready .get b → n.toNat ≤ (s.buf b).held.length →
      ∃ t, exec (.remove b n) s = .next t ∧ (t.buf b).held = (s.buf b).held.drop n.toNat) ∧
    (∀ (k : Half) v, s.ready .get b → (s.buf b).held[k.toNat]? = some (some v) →
      exec (.peekat b k) s = .next (s.ret .none v.toNat 0)) ∧
    (s.ready .either b → exec (.count b) s = .next (s.ret .none (s.buf b).held.length 0))

/-! ## ShadowCursor -/

/-- `SH_BEGIN` snapshots `put`, whether or not a transaction is open (41_shadow.md R151); `SH_WRITE` stores at `cur` and advances
`cur` only (R152); `SH_COMMIT` publishes every shadow byte by one write of `put` (R153). -/
def Obligations.ShadowOps : Prop :=
  ((∀ b, encode (.shBegin b) = .cmd (0x18000000#32 ||| b.word) []) ∧
  ∀ (b : BufSel) (s : State), s.ready .put b →
    exec (.shBegin b) s = .next
      ((s.setBuf b { s.buf b with cur := (s.buf b).put, shv := true }).ret .none (s.buf b).put.toNat 0)) ∧
  ((∀ b (v : Byte), encode (.shWrite b v) = .cmd (0x19000000#32 ||| b.word ||| v.setWidth 32) []) ∧
  ∀ (b : BufSel) (v : Byte) (s : State), s.ready .put b → (s.buf b).shadowOk →
    let q := s.buf b
    exec (.shWrite b v) s = .next
      (if q.shv = false then s.refuse .notxn
      else if (q.cur.toNat + 1) % q.cap.toNat = q.get.toNat then (s.setBuf b { q with err := true }).raise .nospace 0 0
      else (s.setBuf b { q with
        store := Memory.write q.store q.cur.toNat v
        cur := half ((q.cur.toNat + 1) % q.cap.toNat) }).ret .none 1 0)) ∧
  ((∀ b, encode (.shCommit b) = .cmd (0x1A000000#32 ||| b.word) []) ∧
  ∀ (b : BufSel) (s : State), s.ready .put b →
    let q := s.buf b
    let n := if q.put.toNat ≤ q.cur.toNat then q.cur.toNat - q.put.toNat else q.cur.toNat + q.cap.toNat - q.put.toNat
    exec (.shCommit b) s = .next
      (if q.shv = false then s.refuse .notxn
      else (s.setBuf b { q with put := q.cur, shv := false }).ret .none q.cur.toNat n))

/-- While a transaction is open every other put-side operation than `SH_*` and `WSPAN` is refused with `BUSY` and changes
nothing, where its format or type check passes (41_shadow.md R154; 30_encoding.md R90 (6), (7)). -/
def Obligations.TransactionBlocksPuts : Prop :=
  ∀ (b : BufSel) (v : Byte) (payload : List Byte) (s : State), (s.buf b).shv = true →
    (s.ready .put b →
      exec (.putb b v) s = .next (s.refuse .busy) ∧ exec (.putbu b v) s = .next (s.refuse .busy) ∧
      exec (.encData b v) s = .next (s.refuse .busy) ∧
      ((s.buf b).typ ≠ .stream → exec (.pktPut b payload) s = .next (s.refuse .busy)) ∧
      ((s.buf b).fmt.escaped = true → exec (.encCtrl b v) s = .next (s.refuse .busy)) ∧
      ((s.buf b).fmt.hex = true → exec (.encQuote b) s = .next (s.refuse .busy) ∧
        exec (.encLit b v) s = .next (s.refuse .busy))) ∧
    (s.ready .host .tx → b = .tx → s.portError = false → exec (.pdWriteb v) s = .next (s.refuse .busy))

/-- The shadow transaction, whole: after `SH_BEGIN` and any number of accepted `SH_WRITE` the held bytes, `put`, `get` and the
count are what they were; the `SH_COMMIT` appends all the written bytes at once, in write order, and answers their number
(41_shadow.md R155; 20_memory.md R63, R64). -/
def Obligations.ShadowTransaction : Prop :=
  ∀ (b : BufSel) (vs : List Byte) (s : State), s.ready .put b → (s.buf b).offsetsOk → vs.length ≤ (s.buf b).free →
    ∃ t u, execTrace (.shBegin b :: vs.map (.shWrite b)) s =
        some (some ⟨.ok, .none, (s.buf b).put, 0⟩ :: vs.map (fun _ => some ⟨.ok, .none, 1, 0⟩), t) ∧
      (t.buf b).held = (s.buf b).held ∧ (t.buf b).put = (s.buf b).put ∧ (t.buf b).get = (s.buf b).get ∧
      exec (.shCommit b) t = .next u ∧ (u.buf b).held = (s.buf b).held ++ vs.map some ∧
      (u.buf b).count = (s.buf b).count + vs.length ∧
      u.answer = some ⟨.ok, .none, (u.buf b).put, half vs.length⟩

/-! ## FramingLayer -/

/-- The three packet operations are refused on a Stream buffer with `FORMAT` and change nothing (42_framing.md R163). -/
def Obligations.FramingNeedsPackets : Prop :=
  ∀ (b : BufSel) (payload : List Byte) (s : State), (s.buf b).typ = .stream →
    (s.ready .put b → exec (.pktPut b payload) s = .next (s.refuse .format)) ∧
    (s.ready .get b → exec (.pktHas b) s = .next (s.refuse .format) ∧ exec (.pktGetc b) s = .next (s.refuse .format))

/-- The entry check of `PKT_PUT` (42_framing.md R164): the refusals in their order, the choice between the tail and the head
region, the micro-steps and the response. `p` is the prefix size. -/
def Obligations.PktPutRule : Prop :=
  (∀ b (payload : List Byte), payload.length < 65536 → encode (.pktPut b payload) =
    .cmd (0x20000000#32 ||| b.word ||| BitVec.ofNat 32 payload.length) payload) ∧
  ∀ (b : BufSel) (payload : List Byte) (s : State), s.ready .put b →
    let q := s.buf b
    let len := payload.length
    let p := if q.typ = .packet then 1 else 2
    let lenBytes := if q.typ = .packet then [BitVec.ofNat 8 len] else [BitVec.ofNat 8 (len / 256), BitVec.ofNat 8 len]
    let puts := (lenBytes ++ payload).map (Micro.uput b)
    let tail := q.cap.toNat - q.put.toNat - (if q.get = 0 then 1 else 0)
    let plain := if q.get.toNat ≤ q.put.toNat then p + len ≤ tail else p + len ≤ q.get.toNat - q.put.toNat - 1
    let wraps := q.get.toNat ≤ q.put.toNat ∧ 1 ≤ q.get.toNat ∧ p + len ≤ q.get.toNat - 1
    exec (.pktPut b payload) s = .next
      (if q.typ = .stream then s.refuse .format
      else if q.shv then s.refuse .busy
      else if len < 1 ∨ (if q.typ = .packet then 254 else 65279) < len then s.refuse .range
      else if plain then s.begin puts (some ⟨.ok, .none, half (p + len), 0⟩)
      else if wraps then s.begin (.fill b :: puts) (some ⟨.ok, .none, half (p + len), 1⟩)
      else (s.setBuf b { q with err := true }).raise .nospace 0 0)

/-- A whole `PKT_PUT`: when the entry check accepts the packet, running its micro-steps lays the prefix (the length, high byte
first) and the payload out at consecutive offsets that do not pass the physical end, at `put` or, behind a filler marker at
`put`, at 0; `put` ends behind the packet, `get` and every other storage byte stay, and the response is the one that the entry
check fixed (42_framing.md R160, R161, R162, R164; 20_memory.md R54, R56, R60). -/
def Obligations.PacketLaidOut : Prop :=
  ∀ (b : BufSel) (payload : List Byte) (s t : State), s.Inv → s.ready .put b → (s.buf b).typ ≠ .stream →
    (s.lane s.actor).todo = [] → exec (.pktPut b payload) s = .next t → (t.lane t.actor).todo ≠ [] →
      ∃ u, runMicros (t.lane t.actor).todo.length t.actor t = .next u ∧ (u.lane u.actor).todo = [] ∧
        ∃ wrap : Bool, let q := s.buf b
          let bytes := (if q.typ = .packet then [BitVec.ofNat 8 payload.length]
            else [BitVec.ofNat 8 (payload.length / 256), BitVec.ofNat 8 payload.length]) ++ payload
          let x := if wrap then 0 else q.put.toNat
          u.answer = some ⟨.ok, .none, half bytes.length, half wrap.toNat⟩ ∧ x + bytes.length ≤ q.cap.toNat ∧
          (u.buf b).put = half ((x + bytes.length) % q.cap.toNat) ∧ (u.buf b).get = q.get ∧
          (∀ k, k < bytes.length → Memory.read (u.buf b).store (x + k) = bytes[k]?) ∧
          (wrap = true → Memory.read (u.buf b).store q.put.toNat = some 0xFF) ∧
          ∀ off, (off < x ∨ x + bytes.length ≤ off) → ¬ (wrap = true ∧ off = q.put.toNat) →
            Memory.read (u.buf b).store off = Memory.read q.store off

/-- `PKT_HAS` (42_framing.md R165, R168): one round of its loop, on a Packet buffer and on a LargePacket buffer, where the length
is two bytes, the high one first (20_memory.md R54). After a filler the check repeats in the next step, which the agent still has
to take (log entry 9). -/
def Obligations.PktHasRule : Prop :=
  ((∀ b, encode (.pktHas b) = .cmd (0x21000000#32 ||| b.word) []) ∧
  ∀ (b : BufSel) (s : State), s.ready .get b → (s.buf b).offsetsOk → (s.buf b).typ = .packet →
    let q := s.buf b
    let len := (s.byteAt b q.get.toNat).toNat
    let t := s.afterRead b q.get.toNat
    exec (.pktHas b) s = .next
      (if q.count = 0 then s.ret .none 0 0
      else if len = 255 then
        (if q.put.toNat < q.get.toNat then (t.setBuf b { q with get := 0 }).begin [.pktHas b] none else t.refuse .malformed)
      else if len = 0 then t.raise .zerolen 1 0
      else if q.cap.toNat < q.get.toNat + 1 + len then t.refuse .malformed
      else t.ret .none (if 1 + len ≤ q.count then 1 + len else 0) 0)) ∧
  (∀ (b : BufSel) (s : State), s.ready .get b → (s.buf b).offsetsOk → (s.buf b).typ = .largePacket →
    let q := s.buf b
    let high := (s.byteAt b q.get.toNat).toNat
    let t := s.afterRead b q.get.toNat
    let next := (q.get.toNat + 1) % q.cap.toNat
    let len := high * 256 + (t.byteAt b next).toNat
    let u := t.afterRead b next
    exec (.pktHas b) s = .next
      (if q.count = 0 then s.ret .none 0 0
      else if high = 255 then
        (if q.put.toNat < q.get.toNat then (t.setBuf b { q with get := 0 }).begin [.pktHas b] none else t.refuse .malformed)
      else if q.count < 2 then t.ret .none 0 0
      else if len = 0 then u.raise .zerolen 2 0
      else if q.cap.toNat < q.get.toNat + 2 + len then u.refuse .malformed
      else u.ret .none (if 2 + len ≤ q.count then 2 + len else 0) 0))

/-- `PKT_GETC` follows `PKT_HAS` on the same buffer: the same filler removal; the offset after the prefix with `ZEROLEN`; the
other refusals as they are; `NODATA` where `PKT_HAS` answers 0; and the offset and length of the payload, inside the storage,
where it answers the size of a packet (42_framing.md R166). -/
def Obligations.PktGetcRule : Prop :=
  (∀ b, encode (.pktGetc b) = .cmd (0x22000000#32 ||| b.word) []) ∧
  ∀ (b : BufSel) (s : State), s.ready .get b → (s.buf b).offsetsOk → (s.buf b).typ ≠ .stream →
    let q := s.buf b
    let p := if q.typ = .packet then 1 else 2
    ∃ t, exec (.pktHas b) s = .next t ∧
      (t.answer = none → exec (.pktGetc b) s = .next (t.setLane s.actor ⟨[.pktGetc b], none, none⟩)) ∧
      ∀ r, t.answer = some r →
        exec (.pktGetc b) s = .next
          (if r.st = .zerolen then t.raise .zerolen ((q.get.toNat + p) % q.cap.toNat) 0
          else if r.st ≠ .ok then t.refuse r.st
          else if r.a = 0 then t.refuse .nodata
          else t.ret .none (q.get.toNat + p) (r.a.toNat - p)) ∧
        (r.st = .ok → r.a ≠ 0 → q.get.toNat + r.a.toNat ≤ q.cap.toNat ∧ r.a.toNat ≤ q.count ∧ p < r.a.toNat)

/-- After the removal of a filler the check repeats: the micro-step does what the operation does on the buffer as it is then;
and a second filler cannot follow, so both operations end within two steps (42_framing.md R165; 70_reset_and_hazards.md R291). -/
def Obligations.FillerRoundRepeats : Prop :=
  ∀ (a : Agent) (b : BufSel) (s : State), s.fault = false →
    let t := { s.setLane a { s.lane a with todo := [] } with actor := a }
    t.ready .get b → (t.buf b).offsetsOk → (t.buf b).typ ≠ .stream →
    ((s.lane a).todo = [.pktHas b] → runMicro a s = exec (.pktHas b) t) ∧
    ((s.lane a).todo = [.pktGetc b] → runMicro a s = exec (.pktGetc b) t) ∧
    ((t.buf b).get = 0 → ∀ u, exec (.pktHas b) t = .next u ∨ exec (.pktGetc b) t = .next u → (u.lane a).todo = [])

/-! ## Micro-steps -/

/-- The micro-steps of a put: `uput` stores one byte at `put` and advances `put`; `fill` stores the marker at `put` and sets `put`
to 0; `kick`, the last one of `PD_WRITEB`, starts the transmission if the state is Idle and `TX` is not empty (log entry 5). With the last of
them the response that the entry check fixed is given (20_memory.md R60; 44_portdriver.md R213, R217; 70_reset_and_hazards.md
R290). -/
def Obligations.MicroSteps : Prop :=
  (∀ (a : Agent) (b : BufSel) (rest : List Micro) (s : State), s.fault = false → (s.buf b).offsetsOk → (s.buf b).cap ≠ 0 →
    let q := s.buf b
    let l := s.lane a
    let after : Lane := if rest = [] ∧ l.reply ≠ none then ⟨[], none, l.reply⟩ else ⟨rest, l.reply, l.out⟩
    (∀ v, l.todo = .uput b v :: rest →
      runMicro a s = .next (({ s with actor := a }.setBuf b { q with
        store := Memory.write q.store q.put.toNat v
        put := half ((q.put.toNat + 1) % q.cap.toNat) }).setLane a after)) ∧
    (l.todo = .fill b :: rest →
      runMicro a s = .next (({ s with actor := a }.setBuf b { q with
        store := Memory.write q.store q.put.toNat 0xFF#8
        put := 0 }).setLane a after))) ∧
  (∀ (s : State) (r : Response), s.fault = false → s.tx.offsetsOk → s.tx.cap ≠ 0 → s.laneH = ⟨[.kick], some r, none⟩ →
    let g := s.tx.get.toNat
    let t := { s with actor := .h, laneH := ⟨[], none, some r⟩ }
    let armed := { t with pstate := .transmitting, deadline := s.now + BitVec.ofNat 32 s.par.txTimeout }
    runMicro .h s = .next
      (if s.pstate ≠ .idle ∨ s.tx.put = s.tx.get then t
      else if s.per.txreg ≠ none then armed
      else { armed with
        draws := (s.afterRead .tx g).draws
        tx := { s.tx with get := half ((g + 1) % s.tx.cap.toNat) }
        per := { s.per with txreg := some (s.byteAt .tx g) } }))

/-! ## EscapeCodec -/

/-- `ENC_DATA` (43_codec.md R182, R185): the bytes of the data symbol in the buffer's format; one byte is stored at once, two
become micro-steps; all or nothing. -/
def Obligations.EncDataRule : Prop :=
  (∀ b (v : Byte), encode (.encData b v) = .cmd (0x30000000#32 ||| b.word ||| v.setWidth 32) []) ∧
  ∀ (b : BufSel) (v : Byte) (s : State), s.ready .put b → (s.buf b).offsetsOk →
    let q := s.buf b
    let two := q.fmt = .ascii ∨ q.fmt = .asciiEscaped ∨ (q.fmt = .binaryEscaped ∧ v = (s.par.buf b).esc)
    exec (.encData b v) s = .next
      (if q.shv then s.refuse .busy
      else if q.free < (if two then 2 else 1) then (s.setBuf b { q with err := true }).raise .nospace 0 0
      else if two then
        s.begin ((if q.fmt = .binaryEscaped then [v, v] else hexPair v).map (Micro.uput b)) (some ⟨.ok, .none, 2, 0⟩)
      else (s.setBuf b { q with
        store := Memory.write q.store q.put.toNat v
        put := half ((q.put.toNat + 1) % q.cap.toNat) }).ret .none 1 0)

/-- `ENC_CTRL` (43_codec.md R186). -/
def Obligations.EncCtrlRule : Prop :=
  (∀ b (c : Byte), encode (.encCtrl b c) = .cmd (0x31000000#32 ||| b.word ||| c.setWidth 32) []) ∧
  ∀ (b : BufSel) (c : Byte) (s : State), s.ready .put b →
    let q := s.buf b
    let esc := (s.par.buf b).esc
    exec (.encCtrl b c) s = .next
      (if q.fmt ≠ .binaryEscaped ∧ q.fmt ≠ .asciiEscaped then s.refuse .format
      else if q.shv then s.refuse .busy
      else if c = esc then s.refuse .range
      else if q.free < 2 then (s.setBuf b { q with err := true }).raise .nospace 0 0
      else s.begin [.uput b esc, .uput b c] (some ⟨.ok, .none, 2, 0⟩))

/-- `ENC_QUOTE` and `ENC_LIT` (43_codec.md R183, R187, R188). -/
def Obligations.EncLiteralRules : Prop :=
  (∀ b (v : Byte), encode (.encQuote b) = .cmd (0x32000000#32 ||| b.word) [] ∧
    encode (.encLit b v) = .cmd (0x33000000#32 ||| b.word ||| v.setWidth 32) []) ∧
  ∀ (b : BufSel) (v : Byte) (s : State), s.ready .put b → (s.buf b).offsetsOk →
    let q := s.buf b
    let quote := (s.par.buf b).quote
    let full := (s.setBuf b { q with err := true }).raise .nospace 0 0
    let store1 := fun x : Byte => (s.setBuf b { q with
      store := Memory.write q.store q.put.toNat x
      put := half ((q.put.toNat + 1) % q.cap.toNat) }).ret .none 1 0
    exec (.encQuote b) s = .next
      (if q.fmt ≠ .ascii ∧ q.fmt ≠ .asciiEscaped then s.refuse .format
      else if q.shv then s.refuse .busy
      else if q.free < 1 then full
      else store1 quote) ∧
    exec (.encLit b v) s = .next
      (if q.fmt ≠ .ascii ∧ q.fmt ≠ .asciiEscaped then s.refuse .format
      else if q.shv then s.refuse .busy
      else if v = quote then
        (if q.free < 2 then full else s.begin [.uput b quote, .uput b quote] (some ⟨.ok, .none, 2, 0⟩))
      else if q.free < 1 then full
      else store1 v)

/-- Encoding appends: where an encode operation is accepted, running its micro-steps appends exactly the bytes of the symbol to
the held bytes and answers their number (43_codec.md R182, R183, R185 to R188; 20_memory.md R60). -/
def Obligations.EncodeAppends : Prop :=
  ∀ (b : BufSel) (i : Instr) (bytes : List Byte) (s : State), s.ready .put b → (s.buf b).offsetsOk → (s.buf b).shv = false →
    (s.lane s.actor).todo = [] → bytes.length ≤ (s.buf b).free →
    ((∃ v, i = .encData b v ∧ bytes = (CodecSymbol.data v).bytes (s.buf b).fmt (s.par.buf b).esc) ∨
      (∃ c, i = .encCtrl b c ∧ (CodecSymbol.control c).representable (s.buf b).fmt (s.par.buf b).esc = true ∧
        bytes = [(s.par.buf b).esc, c]) ∨
      (i = .encQuote b ∧ (s.buf b).fmt.hex = true ∧ bytes = [(s.par.buf b).quote]) ∨
      ∃ v, i = .encLit b v ∧ (s.buf b).fmt.hex = true ∧ bytes = litBytes (s.par.buf b).quote v) →
    ∃ t u, exec i s = .next t ∧ runMicros bytes.length t.actor t = .next u ∧
      (u.buf b).held = (s.buf b).held ++ bytes.map some ∧ u.answer = some ⟨.ok, .none, half bytes.length, 0⟩

/-- The normal-mode decode function of 43_codec.md R189, in every format, on `c ≥ 1` held bytes; and its digits (R184):
the digit `n` is the byte `0x30 + n` for `n ≤ 9` and `0x37 + n` for `10 ≤ n ≤ 15`, no other byte is a digit, and a byte value is
written as its high digit and its low digit. -/
def Obligations.DecodeFunction : Prop :=
  (∀ (f : Format) (esc quote : Byte) (c : Nat) (b0 b1 : Byte), 1 ≤ c →
    f.decodeNormal esc quote c b0 b1 =
      (if f = .none ∨ f = .binary then .ok ⟨.data, b0, 1⟩
      else if (f = .binaryEscaped ∨ f = .asciiEscaped) ∧ b0 = esc then
        (if c < 2 then .error .nodata else if b1 = esc then .ok ⟨.data, esc, 2⟩ else .ok ⟨.ctrl, b1, 2⟩)
      else if f = .binaryEscaped then .ok ⟨.data, b0, 1⟩
      else if b0 = quote then .ok ⟨.quote, quote, 1⟩
      else if hexVal b0 = none then .error .malformed
      else if c < 2 then .error .nodata
      else if hexVal b1 = none then .error .malformed
      else .ok ⟨.data, BitVec.ofNat 8 ((hexVal b0).getD 0 * 16 + (hexVal b1).getD 0), 2⟩)) ∧
  (∀ v : Byte, ∃ x y, hexPair v = [x, y] ∧ hexVal x = some (v.toNat / 16) ∧ hexVal y = some (v.toNat % 16)) ∧
  ∀ (x : Byte) (n : Nat), hexVal x = some n ↔
    (n ≤ 9 ∧ x.toNat = 0x30 + n) ∨ (10 ≤ n ∧ n ≤ 15 ∧ x.toNat = 0x37 + n)

/-- `DEC_PEEK` and `DEC_GET` (43_codec.md R189, R190, R191): the decode function on the first two held bytes; the get consumes
what it decoded by one write of `get`. -/
def Obligations.DecNormalRules : Prop :=
  (∀ b, encode (.decPeek b) = .cmd (0x38000000#32 ||| b.word) [] ∧ encode (.decGet b) = .cmd (0x39000000#32 ||| b.word) []) ∧
  ∀ (b : BufSel) (s : State), s.ready .get b → (s.buf b).offsetsOk →
    let q := s.buf b
    let next := (q.get.toNat + 1) % q.cap.toNat
    let t := s.afterRead b q.get.toNat
    let u := if q.count < 2 then t else t.afterRead b next
    (q.count = 0 → exec (.decPeek b) s = .next (s.refuse .nodata) ∧ exec (.decGet b) s = .next (s.refuse .nodata)) ∧
    (q.count ≠ 0 → ∀ st,
      q.fmt.decodeNormal (s.par.buf b).esc (s.par.buf b).quote q.count (s.byteAt b q.get.toNat) (t.byteAt b next) = .error st →
      exec (.decPeek b) s = .next (u.refuse st) ∧ exec (.decGet b) s = .next (u.refuse st)) ∧
    (q.count ≠ 0 → ∀ y,
      q.fmt.decodeNormal (s.par.buf b).esc (s.par.buf b).quote q.count (s.byteAt b q.get.toNat) (t.byteAt b next) = .ok y →
      exec (.decPeek b) s = .next (u.ret y.kind y.val.toNat y.size) ∧
      exec (.decGet b) s = .next ((u.setBuf b { q with get := half ((q.get.toNat + y.size) % q.cap.toNat) }).ret y.kind
        y.val.toNat y.size))

/-- `DEC_PEEKL` and `DEC_GETL` (43_codec.md R189, R192, R193), with the literal-mode decode function written out. -/
def Obligations.DecLiteralRules : Prop :=
  (∀ b, encode (.decPeekl b) = .cmd (0x3A000000#32 ||| b.word) [] ∧ encode (.decGetl b) = .cmd (0x3B000000#32 ||| b.word) []) ∧
  ∀ (b : BufSel) (s : State), s.ready .get b → (s.buf b).offsetsOk →
    let q := s.buf b
    let quote := (s.par.buf b).quote
    let next := (q.get.toNat + 1) % q.cap.toNat
    let b0 := s.byteAt b q.get.toNat
    let t := s.afterRead b q.get.toNat
    let u := if q.count < 2 then t else t.afterRead b next
    let take := fun n : Nat => u.setBuf b { q with get := half ((q.get.toNat + n) % q.cap.toNat) }
    exec (.decPeekl b) s = .next
      (if q.fmt ≠ .ascii ∧ q.fmt ≠ .asciiEscaped then s.refuse .format
      else if q.count = 0 then s.refuse .nodata
      else if b0 ≠ quote then u.ret .data b0.toNat 1
      else if q.count < 2 then u.refuse .nodata
      else if t.byteAt b next = quote then u.ret .data quote.toNat 2
      else u.ret .qclose quote.toNat 1) ∧
    exec (.decGetl b) s = .next
      (if q.fmt ≠ .ascii ∧ q.fmt ≠ .asciiEscaped then s.refuse .format
      else if q.count = 0 then s.refuse .nodata
      else if b0 ≠ quote then (take 1).ret .data b0.toNat 1
      else if q.count < 2 then u.refuse .nodata
      else if t.byteAt b next = quote then (take 2).ret .data quote.toNat 2
      else (take 1).ret .qclose quote.toNat 1)

/-- The peek/get law: on the same state both give the same response; the peek leaves `get`, the get advances it by `B`, or by 0
on a refusal (43_codec.md R195). -/
def Obligations.PeekGetLaw : Prop :=
  ∀ (b : BufSel) (s t u : State), s.ready .get b → (s.buf b).offsetsOk →
    (exec (.decPeek b) s = .next t ∧ exec (.decGet b) s = .next u ∨
      exec (.decPeekl b) s = .next t ∧ exec (.decGetl b) s = .next u) →
    t.answer = u.answer ∧ (t.buf b).get = (s.buf b).get ∧
      ∃ r, u.answer = some r ∧
        (u.buf b).get = half (((s.buf b).get.toNat + (if r.st = .ok then r.b.toNat else 0)) % (s.buf b).cap.toNat)

/-- The round-trip law: for every format and every sequence of symbols representable in it, if exactly the bytes of their
encodings are held, repeated `DEC_GET` answers the symbols in order and leaves the buffer empty (43_codec.md R194). -/
def Obligations.CodecRoundTrip : Prop :=
  ∀ (b : BufSel) (ys : List CodecSymbol) (s : State), s.par.ok = true → s.ready .get b → (s.buf b).offsetsOk →
    let f := (s.buf b).fmt
    let esc := (s.par.buf b).esc
    (∀ y ∈ ys, y.representable f esc = true) →
    (s.buf b).held = (ys.flatMap (CodecSymbol.bytes f esc)).map some →
      ∃ t, execTrace (List.replicate ys.length (.decGet b)) s =
          some (ys.map (fun y => some (y.response (y.bytes f esc).length)), t) ∧
        (t.buf b).held = []

/-- The round trip of literal text: held between its quotes and followed by a byte that is not `QUOTE`, it is read as `QUOTE`,
then every byte, then `QCLOSE`, and what follows stays held (43_codec.md R183, R194). -/
def Obligations.LiteralRoundTrip : Prop :=
  ∀ (b : BufSel) (ts : List Byte) (x : Byte) (more : List (Option Byte)) (s : State), s.par.ok = true →
    s.ready .get b → (s.buf b).offsetsOk → (s.buf b).fmt.hex = true →
    let quote := (s.par.buf b).quote
    x ≠ quote →
    (s.buf b).held = ([quote] ++ ts.flatMap (litBytes quote) ++ [quote, x]).map some ++ more →
      ∃ t, execTrace (.decGet b :: List.replicate (ts.length + 1) (.decGetl b)) s =
          some (some ⟨.ok, .quote, half quote.toNat, 1⟩ ::
            ts.map (fun v => some ⟨.ok, .data, half v.toNat, half (litBytes quote v).length⟩) ++
            [some ⟨.ok, .qclose, half quote.toNat, 1⟩], t) ∧
        (t.buf b).held = some x :: more

/-! ## PortDriver -/

/-- The deadline test is wrap-safe: a deadline `n` ticks ago has elapsed exactly when `n < 2^31`; in particular it elapses at the
tick equal to it and not one tick before (44_portdriver.md R221). -/
def Obligations.ElapsedLaw : Prop :=
  (∀ (d : Word) (n : Nat), n < 4294967296 → (elapsed (d + BitVec.ofNat 32 n) d = true ↔ n < 2147483648)) ∧
    (∀ d : Word, elapsed d d = true ∧ elapsed (d - 1) d = false) ∧
    ∀ now d : Word, elapsed now d = true ↔ 0 ≤ (now - d).toInt

/-- `PD_WRITEB` (44_portdriver.md R217): the refusals in their order, the bytes as micro-steps with the kick behind them, and
the response (that the kick is a step of its own in every state is the model's choice, log entry 9). -/
def Obligations.PdWritebRule : Prop :=
  (∀ v : Byte, encode (.pdWriteb v) = .cmd (0x40000000#32 ||| v.setWidth 32) []) ∧
  ∀ (v : Byte) (s : State), s.ready .host .tx →
    let bytes := s.tx.fmt.encData s.par.tx.esc v
    exec (.pdWriteb v) s = .next
      (if s.tx.err = true ∨ s.toErr = true then s.refuse .porterr
      else if s.tx.shv then s.refuse .busy
      else if s.tx.free < bytes.length then (s.setBuf .tx { s.tx with err := true }).raise .nospace 0 0
      else s.begin (bytes.map (Micro.uput .tx) ++ [.kick]) (some ⟨.ok, .none, 1, half bytes.length⟩))

/-- `PD_ISBUSY`, `PD_STATUS` and `PD_CLRERR` (44_portdriver.md R218, R219, R220). The last two need no initialised buffer. -/
def Obligations.PortStatusOps : Prop :=
  (encode .pdIsbusy = .cmd 0x41000000#32 [] ∧ encode .pdStatus = .cmd 0x42000000#32 [] ∧
    encode .pdClrerr = .cmd 0x43000000#32 []) ∧
  ∀ s : State,
    (s.ready .host .tx →
      exec .pdIsbusy s = .next (s.ret .none (if s.pstate ≠ .idle ∨ s.tx.put ≠ s.tx.get then 1 else 0) 0)) ∧
    (s.accepts .host .tx →
      exec .pdStatus s = .next (s.ret .none ((match s.pstate with | .idle => 0 | .transmitting => 1 | .stopping => 2) +
        (if s.toErr then 4 else 0) + (if s.tx.err then 8 else 0) + (if s.rx.err then 16 else 0)) 0) ∧
      exec .pdClrerr s = .next ({ s with toErr := false, tx := { s.tx with err := false } }.ret .none 0 0))

/-- `EV_TASK` (44_portdriver.md R213, R214, R222): the kick-start while Idle with bytes queued, the timeout while not Idle with
the deadline elapsed, nothing otherwise. -/
def Obligations.EvTaskRule : Prop :=
  ∀ s : State, s.tx.offsetsOk →
    let g := s.tx.get.toNat
    let armed := { s with pstate := .transmitting, deadline := s.now + BitVec.ofNat 32 s.par.txTimeout }
    exec .evTask s = .next
      (if s.fault then s
      else if s.pstate = .idle then
        (if s.tx.cap = 0 ∨ s.tx.put = s.tx.get then s
        else if s.per.txreg ≠ none then armed
        else { armed with
          draws := (s.afterRead .tx g).draws
          tx := { s.tx with get := half ((g + 1) % s.tx.cap.toNat) }
          per := { s.per with txreg := some (s.byteAt .tx g) } })
      else if elapsed s.now s.deadline then
        { s with toErr := true, tx := { s.tx with get := s.tx.put }, pstate := .idle }
      else s)

/-- `EV_TXIRQ` (44_portdriver.md R215): while Transmitting and the peripheral can take a byte, Idle if `TX` is empty, else one
byte handed over and the deadline re-armed; nothing otherwise. That nothing changes while the peripheral cannot take a byte although
`TX` is empty (R215's last words, 70_reset_and_hazards.md R287 (b); the pseudocode of R215 goes Idle) is a deduction (log entry
18). -/
def Obligations.EvTxirqRule : Prop :=
  ∀ s : State, s.tx.offsetsOk →
    let g := s.tx.get.toNat
    exec .evTxirq s = .next
      (if s.fault = true ∨ s.pstate ≠ .transmitting ∨ s.per.txreg ≠ none then s
      else if s.tx.put = s.tx.get then { s with pstate := .idle }
      else { s with
        draws := (s.afterRead .tx g).draws
        deadline := s.now + BitVec.ofNat 32 s.par.txTimeout
        tx := { s.tx with get := half ((g + 1) % s.tx.cap.toNat) }
        per := { s.per with txreg := some (s.byteAt .tx g) } })

/-- `EV_RXIRQ` (44_portdriver.md R216): the error flags are cleared first, and the receive drain begins; each iteration takes one
byte from the peripheral and puts it into `RX`, or drops it and sets `err[RX]`; the drain goes on. Where the
peripheral has no byte, the drain is over: a step that takes a command, an event or a `go`, or finds no input, is what it is with no
drain pending, so that the turn is the task agent's again (that this costs no step is the model's choice, log entry 8). -/
def Obligations.EvRxirqRule : Prop :=
  (∀ s : State, exec .evRxirq s = .next
    (if s.fault then s
    else { s with
      per := { s.per with overrun := false, framing := false, parity := false }
      laneI := { s.laneI with todo := [.drain] } })) ∧
  (∀ (s : State) (v : Byte) (more : List Byte), s.fault = false → s.rx.offsetsOk → s.laneI.todo = [.drain] →
    s.per.rxq = v :: more →
    let t := { s with actor := .irq, per := { s.per with rxq := more } }
    runMicro .irq s = .next
      (if s.rx.cap = 0 ∨ (s.rx.put.toNat + 1) % s.rx.cap.toNat = s.rx.get.toNat then
        { t with rx := { s.rx with err := true } }
      else { t with rx := { s.rx with
        store := Memory.write s.rx.store s.rx.put.toNat v
        put := half ((s.rx.put.toNat + 1) % s.rx.cap.toNat) } })) ∧
  ∀ s : State, s.per.hasRx = false → (∀ i, s.inputs.head? = some i → i.agent ≠ none) →
    step s = step { s with laneI := { s.laneI with todo := [] } }

/-- The drain is the event's whole effect when the peripheral offers finitely many bytes: after one iteration for each, they
are appended to `RX`, in order, as far as they fit; `err[RX]` is set if one was dropped (44_portdriver.md R216;
70_reset_and_hazards.md R285, R286). -/
def Obligations.DrainAppends : Prop :=
  ∀ s : State, s.fault = false → s.rx.offsetsOk → s.rx.cap ≠ 0 → s.laneI.todo = [.drain] →
    ∃ t, runMicros s.per.rxq.length .irq s = .next t ∧ t.per.rxq = [] ∧
      t.rx.held = s.rx.held ++ (s.per.rxq.take s.rx.free).map some ∧
      t.rx.err = (s.rx.err || decide (s.rx.free < s.per.rxq.length)) ∧ t.tx = s.tx ∧ t.pstate = s.pstate

/-! ## The fault latch and the sticky flags -/

/-- The fault latch (60_exceptions.md R244; 10_state.md R30): only a `PUTBU` on a full buffer sets it, and every pending
micro-step is dropped with it; only reset clears it; while it is set no step changes a register of the engine. -/
def Obligations.FaultLatch : Prop :=
  ∀ s t : State, step s = .next t →
    (s.fault = false → t.fault = true → ∃ f u b v, s.plan = .run f u ∧ decode f = .ok (.putbu b v) ∧
      (u.buf b).isFull = true ∧ t.tx = s.tx ∧ t.rx = s.rx ∧ ∀ a, (t.lane a).todo = []) ∧
    (s.fault = true → s.inputs.head? ≠ some .reset → t.fault = true ∧ t.tx = s.tx ∧ t.rx = s.rx ∧ t.pstate = s.pstate ∧
      t.deadline = s.deadline ∧ t.toErr = s.toErr)

/-- `toErr` is set only by the timeout: in a step whose event is `EV_TASK`, not Idle, the deadline elapsed; and the timeout
flushes `TX` and goes Idle (44_portdriver.md R222, R227 (c)). -/
def Obligations.TimeoutOnly : Prop :=
  ∀ s t : State, step s = .next t → s.toErr = false → t.toErr = true →
    s.fault = false ∧ s.pstate ≠ .idle ∧ elapsed s.now s.deadline = true ∧ t.pstate = .idle ∧ t.tx.get = t.tx.put ∧
      ∃ u, s.plan = .run (.ev 0b100#3) u

/-- Refusals other than `NOSPACE` never set the sticky error flag: if a command sets `err` of a buffer, it is the buffer it
selects, and it answers `NOSPACE` (60_exceptions.md R242, R245). -/
def Obligations.OnlyNospaceSetsErr : Prop :=
  ∀ (i : Instr) (b : BufSel) (s t : State), sideOf i ≠ .event → exec i s = .next t → (s.buf b).err = false →
    (t.buf b).err = true → b = bufOf i ∧ t.answer = some ⟨.nospace, .none, 0, 0⟩

/-! ## Frames -/

/-- Queries and peeks change nothing but the response (and the counter of free draws): every register, every byte of storage,
every other lane, the peripheral and the inputs stay. A get-side operation that consumes writes `get` of its buffer and nothing
else but its own lane and that counter; no byte of storage changes (20_memory.md R62, R67; 10_state.md R42). -/
def Obligations.GetSideFrame : Prop :=
  (∀ (i : Instr) (b : BufSel) (k : Half) (s t : State),
    i ∈ [.isempty b, .isfull b, .count b, .free b, .rspan b, .wspan b, .geterr b, .peekb b, .peekat b k, .drd b k, .decPeek b,
      .decPeekl b, .pdIsbusy, .pdStatus] →
    exec i s = .next t → ∃ r d, t = State.respond r { s with draws := d }) ∧
  (∀ (i : Instr) (b : BufSel) (n : Half) (s t : State),
    i ∈ [.getb b, .remove b n, .pktHas b, .pktGetc b, .decGet b, .decGetl b] → exec i s = .next t →
      ∃ g d l, t = ({ s with draws := d }.setBuf b { s.buf b with get := g }).setLane s.actor l)

/-- What a put-side command leaves alone: `cap`, `typ`, `fmt` and `get` of its buffer, the other buffer, `pstate`, `deadline`,
`toErr`, the peripheral, the tick; the fault latch but for `PUTBU`; and every byte of storage but the one at the offset it
stores to: `cur` for `SH_WRITE`, `put` for the one-byte puts, none for the rest, whose bytes are stored by micro-steps
(10_state.md R42; 30_encoding.md R88). -/
def Obligations.PutFrame : Prop :=
  ∀ (i : Instr) (b : BufSel) (v : Byte) (payload : List Byte) (s t : State),
    i ∈ [.putb b v, .putbu b v, .shBegin b, .shWrite b v, .shCommit b, .pktPut b payload, .encData b v, .encCtrl b v,
      .encQuote b, .encLit b v] →
    exec i s = .next t →
      (t.buf b).cap = (s.buf b).cap ∧ (t.buf b).typ = (s.buf b).typ ∧ (t.buf b).fmt = (s.buf b).fmt ∧
      (t.buf b).get = (s.buf b).get ∧ (∀ c, c ≠ b → t.buf c = s.buf c) ∧ t.pstate = s.pstate ∧ t.deadline = s.deadline ∧
      t.toErr = s.toErr ∧ t.per = s.per ∧ t.now = s.now ∧ t.inputs = s.inputs ∧ t.par = s.par ∧
      (i ≠ .putbu b v → t.fault = s.fault ∧ ∀ a, a ≠ s.actor → t.lane a = s.lane a) ∧
      (i ∈ [.putb b v, .putbu b v, .encData b v, .encQuote b, .encLit b v] →
        ∀ off, off ≠ (s.buf b).put.toNat → Memory.read (t.buf b).store off = Memory.read (s.buf b).store off) ∧
      (i = .shWrite b v →
        (∀ off, off ≠ (s.buf b).cur.toNat → Memory.read (t.buf b).store off = Memory.read (s.buf b).store off) ∧
        (t.buf b).put = (s.buf b).put) ∧
      (i ∈ [.shBegin b, .shCommit b, .pktPut b payload, .encCtrl b v] →
        ∀ off, Memory.read (t.buf b).store off = Memory.read (s.buf b).store off)

/-- What the configuration, clearing and host commands and the events leave alone; none of them stores a byte in the step of
its `exec` (10_state.md R42; 70_reset_and_hazards.md R273; 44_portdriver.md R220). -/
def Obligations.HostFrame : Prop :=
  ∀ (s t : State),
    (∀ b cap typ fmt, exec (.init b cap typ fmt) s = .next t →
      (∀ c, c ≠ b → t.buf c = s.buf c) ∧ (∀ off, Memory.read (t.buf b).store off = Memory.read (s.buf b).store off) ∧
      t.fault = s.fault ∧ t.pstate = s.pstate ∧ t.deadline = s.deadline ∧ t.toErr = s.toErr ∧ t.per = s.per ∧
      ∀ a, (t.lane a).todo = (s.lane a).todo) ∧
    (∀ b, exec (.clrerr b) s = .next t → ∃ e r, t = State.respond r (s.setBuf b { s.buf b with err := e })) ∧
    (exec .pdClrerr s = .next t → ∃ e f r, t = State.respond r { s with toErr := f, tx := { s.tx with err := e } }) ∧
    (∀ v, exec (.pdWriteb v) s = .next t → ∃ e l, t = ({ s with tx := { s.tx with err := e } }).setLane s.actor l) ∧
    (exec .evRxirq s = .next t → ∃ q l, t = { s with per := q, laneI := l } ∧ q.rxq = s.per.rxq ∧ q.txreg = s.per.txreg ∧
      q.txlog = s.per.txlog) ∧
    (exec .evTxirq s = .next t ∨ exec .evTask s = .next t → t.rx = s.rx ∧ (∀ a, t.lane a = s.lane a) ∧
      t.fault = s.fault ∧ t.per.rxq = s.per.rxq ∧ t.per.txlog = s.per.txlog ∧ t.now = s.now ∧ t.inputs = s.inputs ∧
      ∃ g, t.tx = { s.tx with get := g })
end

