-- ==== Sys2Proof/Laws/State.lean ====
section
/-! SUPPORT. One lemma per field for each named update of the state. -/

namespace Sys2Proof.Machine

theorem half_toNat {n : Nat} (h : n < 65536) : (half n).toNat = n := by
  simp only [half, BitVec.toNat_ofNat]
  exact Nat.mod_eq_of_lt h

@[simp] theorem half_toNat_self (x : Half) : half x.toNat = x := by
  simp [half]

@[simp] theorem State.buf_tx (s : State) : s.buf .tx = s.tx := rfl
@[simp] theorem State.buf_rx (s : State) : s.buf .rx = s.rx := rfl
@[simp] theorem State.lane_p (s : State) : s.lane .p = s.laneP := rfl
@[simp] theorem State.lane_g (s : State) : s.lane .g = s.laneG := rfl
@[simp] theorem State.lane_h (s : State) : s.lane .h = s.laneH := rfl
@[simp] theorem State.lane_irq (s : State) : s.lane .irq = s.laneI := rfl

@[simp] theorem State.setBuf_tx_tx (s : State) (q : Buffer) : (s.setBuf .tx q).tx = q := rfl
@[simp] theorem State.setBuf_tx_rx (s : State) (q : Buffer) : (s.setBuf .tx q).rx = s.rx := rfl
@[simp] theorem State.setBuf_rx_rx (s : State) (q : Buffer) : (s.setBuf .rx q).rx = q := rfl
@[simp] theorem State.setBuf_rx_tx (s : State) (q : Buffer) : (s.setBuf .rx q).tx = s.tx := rfl

@[simp] theorem State.buf_setBuf (s : State) (b : BufSel) (q : Buffer) : (s.setBuf b q).buf b = q := by
  cases b <;> rfl

theorem State.buf_setBuf_of_ne (s : State) {b c : BufSel} (q : Buffer) (h : c ≠ b) :
    (s.setBuf b q).buf c = s.buf c := by
  cases b <;> cases c <;> first | rfl | exact absurd rfl h

@[simp] theorem State.lane_setLane (s : State) (a : Agent) (l : Lane) : (s.setLane a l).lane a = l := by
  cases a <;> rfl

theorem State.lane_setLane_of_ne (s : State) {a x : Agent} (l : Lane) (h : x ≠ a) :
    (s.setLane a l).lane x = s.lane x := by
  cases a <;> cases x <;> first | rfl | exact absurd rfl h

@[simp] theorem State.setBuf_par (s : State) (b : BufSel) (q : Buffer) : (s.setBuf b q).par = s.par := by cases b <;> rfl
@[simp] theorem State.setBuf_fault (s : State) (b : BufSel) (q : Buffer) : (s.setBuf b q).fault = s.fault := by cases b <;> rfl
@[simp] theorem State.setBuf_pstate (s : State) (b : BufSel) (q : Buffer) : (s.setBuf b q).pstate = s.pstate := by cases b <;> rfl
@[simp] theorem State.setBuf_deadline (s : State) (b : BufSel) (q : Buffer) : (s.setBuf b q).deadline = s.deadline := by cases b <;> rfl
@[simp] theorem State.setBuf_toErr (s : State) (b : BufSel) (q : Buffer) : (s.setBuf b q).toErr = s.toErr := by cases b <;> rfl
@[simp] theorem State.setBuf_per (s : State) (b : BufSel) (q : Buffer) : (s.setBuf b q).per = s.per := by cases b <;> rfl
@[simp] theorem State.setBuf_now (s : State) (b : BufSel) (q : Buffer) : (s.setBuf b q).now = s.now := by cases b <;> rfl
@[simp] theorem State.setBuf_actor (s : State) (b : BufSel) (q : Buffer) : (s.setBuf b q).actor = s.actor := by cases b <;> rfl
@[simp] theorem State.setBuf_inputs (s : State) (b : BufSel) (q : Buffer) : (s.setBuf b q).inputs = s.inputs := by cases b <;> rfl
@[simp] theorem State.setBuf_draws (s : State) (b : BufSel) (q : Buffer) : (s.setBuf b q).draws = s.draws := by cases b <;> rfl
@[simp] theorem State.setBuf_lane (s : State) (b : BufSel) (q : Buffer) (x : Agent) : (s.setBuf b q).lane x = s.lane x := by cases b <;> cases x <;> rfl
@[simp] theorem State.setBuf_laneP (s : State) (b : BufSel) (q : Buffer) : (s.setBuf b q).laneP = s.laneP := by cases b <;> rfl
@[simp] theorem State.setBuf_laneG (s : State) (b : BufSel) (q : Buffer) : (s.setBuf b q).laneG = s.laneG := by cases b <;> rfl
@[simp] theorem State.setBuf_laneH (s : State) (b : BufSel) (q : Buffer) : (s.setBuf b q).laneH = s.laneH := by cases b <;> rfl
@[simp] theorem State.setBuf_laneI (s : State) (b : BufSel) (q : Buffer) : (s.setBuf b q).laneI = s.laneI := by cases b <;> rfl

@[simp] theorem State.setErr_par (s : State) (b : BufSel) : (s.setErr b).par = s.par := by cases b <;> rfl
@[simp] theorem State.setErr_fault (s : State) (b : BufSel) : (s.setErr b).fault = s.fault := by cases b <;> rfl
@[simp] theorem State.setErr_pstate (s : State) (b : BufSel) : (s.setErr b).pstate = s.pstate := by cases b <;> rfl
@[simp] theorem State.setErr_deadline (s : State) (b : BufSel) : (s.setErr b).deadline = s.deadline := by cases b <;> rfl
@[simp] theorem State.setErr_toErr (s : State) (b : BufSel) : (s.setErr b).toErr = s.toErr := by cases b <;> rfl
@[simp] theorem State.setErr_per (s : State) (b : BufSel) : (s.setErr b).per = s.per := by cases b <;> rfl
@[simp] theorem State.setErr_now (s : State) (b : BufSel) : (s.setErr b).now = s.now := by cases b <;> rfl
@[simp] theorem State.setErr_actor (s : State) (b : BufSel) : (s.setErr b).actor = s.actor := by cases b <;> rfl
@[simp] theorem State.setErr_inputs (s : State) (b : BufSel) : (s.setErr b).inputs = s.inputs := by cases b <;> rfl
@[simp] theorem State.setErr_draws (s : State) (b : BufSel) : (s.setErr b).draws = s.draws := by cases b <;> rfl
@[simp] theorem State.setErr_lane (s : State) (b : BufSel) (x : Agent) : (s.setErr b).lane x = s.lane x := by cases b <;> cases x <;> rfl
@[simp] theorem State.setErr_laneP (s : State) (b : BufSel) : (s.setErr b).laneP = s.laneP := by cases b <;> rfl
@[simp] theorem State.setErr_laneG (s : State) (b : BufSel) : (s.setErr b).laneG = s.laneG := by cases b <;> rfl
@[simp] theorem State.setErr_laneH (s : State) (b : BufSel) : (s.setErr b).laneH = s.laneH := by cases b <;> rfl
@[simp] theorem State.setErr_laneI (s : State) (b : BufSel) : (s.setErr b).laneI = s.laneI := by cases b <;> rfl

@[simp] theorem State.clearErr_par (s : State) (b : BufSel) : (s.clearErr b).par = s.par := by cases b <;> rfl
@[simp] theorem State.clearErr_fault (s : State) (b : BufSel) : (s.clearErr b).fault = s.fault := by cases b <;> rfl
@[simp] theorem State.clearErr_pstate (s : State) (b : BufSel) : (s.clearErr b).pstate = s.pstate := by cases b <;> rfl
@[simp] theorem State.clearErr_deadline (s : State) (b : BufSel) : (s.clearErr b).deadline = s.deadline := by cases b <;> rfl
@[simp] theorem State.clearErr_toErr (s : State) (b : BufSel) : (s.clearErr b).toErr = s.toErr := by cases b <;> rfl
@[simp] theorem State.clearErr_per (s : State) (b : BufSel) : (s.clearErr b).per = s.per := by cases b <;> rfl
@[simp] theorem State.clearErr_now (s : State) (b : BufSel) : (s.clearErr b).now = s.now := by cases b <;> rfl
@[simp] theorem State.clearErr_actor (s : State) (b : BufSel) : (s.clearErr b).actor = s.actor := by cases b <;> rfl
@[simp] theorem State.clearErr_inputs (s : State) (b : BufSel) : (s.clearErr b).inputs = s.inputs := by cases b <;> rfl
@[simp] theorem State.clearErr_draws (s : State) (b : BufSel) : (s.clearErr b).draws = s.draws := by cases b <;> rfl
@[simp] theorem State.clearErr_lane (s : State) (b : BufSel) (x : Agent) : (s.clearErr b).lane x = s.lane x := by cases b <;> cases x <;> rfl
@[simp] theorem State.clearErr_laneP (s : State) (b : BufSel) : (s.clearErr b).laneP = s.laneP := by cases b <;> rfl
@[simp] theorem State.clearErr_laneG (s : State) (b : BufSel) : (s.clearErr b).laneG = s.laneG := by cases b <;> rfl
@[simp] theorem State.clearErr_laneH (s : State) (b : BufSel) : (s.clearErr b).laneH = s.laneH := by cases b <;> rfl
@[simp] theorem State.clearErr_laneI (s : State) (b : BufSel) : (s.clearErr b).laneI = s.laneI := by cases b <;> rfl

@[simp] theorem State.setPut_par (s : State) (b : BufSel) (n : Nat) : (s.setPut b n).par = s.par := by cases b <;> rfl
@[simp] theorem State.setPut_fault (s : State) (b : BufSel) (n : Nat) : (s.setPut b n).fault = s.fault := by cases b <;> rfl
@[simp] theorem State.setPut_pstate (s : State) (b : BufSel) (n : Nat) : (s.setPut b n).pstate = s.pstate := by cases b <;> rfl
@[simp] theorem State.setPut_deadline (s : State) (b : BufSel) (n : Nat) : (s.setPut b n).deadline = s.deadline := by cases b <;> rfl
@[simp] theorem State.setPut_toErr (s : State) (b : BufSel) (n : Nat) : (s.setPut b n).toErr = s.toErr := by cases b <;> rfl
@[simp] theorem State.setPut_per (s : State) (b : BufSel) (n : Nat) : (s.setPut b n).per = s.per := by cases b <;> rfl
@[simp] theorem State.setPut_now (s : State) (b : BufSel) (n : Nat) : (s.setPut b n).now = s.now := by cases b <;> rfl
@[simp] theorem State.setPut_actor (s : State) (b : BufSel) (n : Nat) : (s.setPut b n).actor = s.actor := by cases b <;> rfl
@[simp] theorem State.setPut_inputs (s : State) (b : BufSel) (n : Nat) : (s.setPut b n).inputs = s.inputs := by cases b <;> rfl
@[simp] theorem State.setPut_draws (s : State) (b : BufSel) (n : Nat) : (s.setPut b n).draws = s.draws := by cases b <;> rfl
@[simp] theorem State.setPut_lane (s : State) (b : BufSel) (n : Nat) (x : Agent) : (s.setPut b n).lane x = s.lane x := by cases b <;> cases x <;> rfl
@[simp] theorem State.setPut_laneP (s : State) (b : BufSel) (n : Nat) : (s.setPut b n).laneP = s.laneP := by cases b <;> rfl
@[simp] theorem State.setPut_laneG (s : State) (b : BufSel) (n : Nat) : (s.setPut b n).laneG = s.laneG := by cases b <;> rfl
@[simp] theorem State.setPut_laneH (s : State) (b : BufSel) (n : Nat) : (s.setPut b n).laneH = s.laneH := by cases b <;> rfl
@[simp] theorem State.setPut_laneI (s : State) (b : BufSel) (n : Nat) : (s.setPut b n).laneI = s.laneI := by cases b <;> rfl

@[simp] theorem State.setGet_par (s : State) (b : BufSel) (n : Nat) : (s.setGet b n).par = s.par := by cases b <;> rfl
@[simp] theorem State.setGet_fault (s : State) (b : BufSel) (n : Nat) : (s.setGet b n).fault = s.fault := by cases b <;> rfl
@[simp] theorem State.setGet_pstate (s : State) (b : BufSel) (n : Nat) : (s.setGet b n).pstate = s.pstate := by cases b <;> rfl
@[simp] theorem State.setGet_deadline (s : State) (b : BufSel) (n : Nat) : (s.setGet b n).deadline = s.deadline := by cases b <;> rfl
@[simp] theorem State.setGet_toErr (s : State) (b : BufSel) (n : Nat) : (s.setGet b n).toErr = s.toErr := by cases b <;> rfl
@[simp] theorem State.setGet_per (s : State) (b : BufSel) (n : Nat) : (s.setGet b n).per = s.per := by cases b <;> rfl
@[simp] theorem State.setGet_now (s : State) (b : BufSel) (n : Nat) : (s.setGet b n).now = s.now := by cases b <;> rfl
@[simp] theorem State.setGet_actor (s : State) (b : BufSel) (n : Nat) : (s.setGet b n).actor = s.actor := by cases b <;> rfl
@[simp] theorem State.setGet_inputs (s : State) (b : BufSel) (n : Nat) : (s.setGet b n).inputs = s.inputs := by cases b <;> rfl
@[simp] theorem State.setGet_draws (s : State) (b : BufSel) (n : Nat) : (s.setGet b n).draws = s.draws := by cases b <;> rfl
@[simp] theorem State.setGet_lane (s : State) (b : BufSel) (n : Nat) (x : Agent) : (s.setGet b n).lane x = s.lane x := by cases b <;> cases x <;> rfl
@[simp] theorem State.setGet_laneP (s : State) (b : BufSel) (n : Nat) : (s.setGet b n).laneP = s.laneP := by cases b <;> rfl
@[simp] theorem State.setGet_laneG (s : State) (b : BufSel) (n : Nat) : (s.setGet b n).laneG = s.laneG := by cases b <;> rfl
@[simp] theorem State.setGet_laneH (s : State) (b : BufSel) (n : Nat) : (s.setGet b n).laneH = s.laneH := by cases b <;> rfl
@[simp] theorem State.setGet_laneI (s : State) (b : BufSel) (n : Nat) : (s.setGet b n).laneI = s.laneI := by cases b <;> rfl

@[simp] theorem State.setCur_par (s : State) (b : BufSel) (n : Nat) : (s.setCur b n).par = s.par := by cases b <;> rfl
@[simp] theorem State.setCur_fault (s : State) (b : BufSel) (n : Nat) : (s.setCur b n).fault = s.fault := by cases b <;> rfl
@[simp] theorem State.setCur_pstate (s : State) (b : BufSel) (n : Nat) : (s.setCur b n).pstate = s.pstate := by cases b <;> rfl
@[simp] theorem State.setCur_deadline (s : State) (b : BufSel) (n : Nat) : (s.setCur b n).deadline = s.deadline := by cases b <;> rfl
@[simp] theorem State.setCur_toErr (s : State) (b : BufSel) (n : Nat) : (s.setCur b n).toErr = s.toErr := by cases b <;> rfl
@[simp] theorem State.setCur_per (s : State) (b : BufSel) (n : Nat) : (s.setCur b n).per = s.per := by cases b <;> rfl
@[simp] theorem State.setCur_now (s : State) (b : BufSel) (n : Nat) : (s.setCur b n).now = s.now := by cases b <;> rfl
@[simp] theorem State.setCur_actor (s : State) (b : BufSel) (n : Nat) : (s.setCur b n).actor = s.actor := by cases b <;> rfl
@[simp] theorem State.setCur_inputs (s : State) (b : BufSel) (n : Nat) : (s.setCur b n).inputs = s.inputs := by cases b <;> rfl
@[simp] theorem State.setCur_draws (s : State) (b : BufSel) (n : Nat) : (s.setCur b n).draws = s.draws := by cases b <;> rfl
@[simp] theorem State.setCur_lane (s : State) (b : BufSel) (n : Nat) (x : Agent) : (s.setCur b n).lane x = s.lane x := by cases b <;> cases x <;> rfl
@[simp] theorem State.setCur_laneP (s : State) (b : BufSel) (n : Nat) : (s.setCur b n).laneP = s.laneP := by cases b <;> rfl
@[simp] theorem State.setCur_laneG (s : State) (b : BufSel) (n : Nat) : (s.setCur b n).laneG = s.laneG := by cases b <;> rfl
@[simp] theorem State.setCur_laneH (s : State) (b : BufSel) (n : Nat) : (s.setCur b n).laneH = s.laneH := by cases b <;> rfl
@[simp] theorem State.setCur_laneI (s : State) (b : BufSel) (n : Nat) : (s.setCur b n).laneI = s.laneI := by cases b <;> rfl

@[simp] theorem State.setLane_par (s : State) (a : Agent) (l : Lane) : (s.setLane a l).par = s.par := by cases a <;> rfl
@[simp] theorem State.setLane_fault (s : State) (a : Agent) (l : Lane) : (s.setLane a l).fault = s.fault := by cases a <;> rfl
@[simp] theorem State.setLane_pstate (s : State) (a : Agent) (l : Lane) : (s.setLane a l).pstate = s.pstate := by cases a <;> rfl
@[simp] theorem State.setLane_deadline (s : State) (a : Agent) (l : Lane) : (s.setLane a l).deadline = s.deadline := by cases a <;> rfl
@[simp] theorem State.setLane_toErr (s : State) (a : Agent) (l : Lane) : (s.setLane a l).toErr = s.toErr := by cases a <;> rfl
@[simp] theorem State.setLane_per (s : State) (a : Agent) (l : Lane) : (s.setLane a l).per = s.per := by cases a <;> rfl
@[simp] theorem State.setLane_now (s : State) (a : Agent) (l : Lane) : (s.setLane a l).now = s.now := by cases a <;> rfl
@[simp] theorem State.setLane_actor (s : State) (a : Agent) (l : Lane) : (s.setLane a l).actor = s.actor := by cases a <;> rfl
@[simp] theorem State.setLane_inputs (s : State) (a : Agent) (l : Lane) : (s.setLane a l).inputs = s.inputs := by cases a <;> rfl
@[simp] theorem State.setLane_draws (s : State) (a : Agent) (l : Lane) : (s.setLane a l).draws = s.draws := by cases a <;> rfl
@[simp] theorem State.setLane_tx (s : State) (a : Agent) (l : Lane) : (s.setLane a l).tx = s.tx := by cases a <;> rfl
@[simp] theorem State.setLane_rx (s : State) (a : Agent) (l : Lane) : (s.setLane a l).rx = s.rx := by cases a <;> rfl
@[simp] theorem State.setLane_buf (s : State) (a : Agent) (l : Lane) (x : BufSel) : (s.setLane a l).buf x = s.buf x := by cases x <;> simp [State.buf]

@[simp] theorem State.respond_par (s : State) (r : Response) : (s.respond r).par = s.par := by simp [State.respond]
@[simp] theorem State.respond_fault (s : State) (r : Response) : (s.respond r).fault = s.fault := by simp [State.respond]
@[simp] theorem State.respond_pstate (s : State) (r : Response) : (s.respond r).pstate = s.pstate := by simp [State.respond]
@[simp] theorem State.respond_deadline (s : State) (r : Response) : (s.respond r).deadline = s.deadline := by simp [State.respond]
@[simp] theorem State.respond_toErr (s : State) (r : Response) : (s.respond r).toErr = s.toErr := by simp [State.respond]
@[simp] theorem State.respond_per (s : State) (r : Response) : (s.respond r).per = s.per := by simp [State.respond]
@[simp] theorem State.respond_now (s : State) (r : Response) : (s.respond r).now = s.now := by simp [State.respond]
@[simp] theorem State.respond_actor (s : State) (r : Response) : (s.respond r).actor = s.actor := by simp [State.respond]
@[simp] theorem State.respond_inputs (s : State) (r : Response) : (s.respond r).inputs = s.inputs := by simp [State.respond]
@[simp] theorem State.respond_draws (s : State) (r : Response) : (s.respond r).draws = s.draws := by simp [State.respond]
@[simp] theorem State.respond_tx (s : State) (r : Response) : (s.respond r).tx = s.tx := by simp [State.respond]
@[simp] theorem State.respond_rx (s : State) (r : Response) : (s.respond r).rx = s.rx := by simp [State.respond]
@[simp] theorem State.respond_buf (s : State) (r : Response) (x : BufSel) : (s.respond r).buf x = s.buf x := by cases x <;> simp [State.buf]

@[simp] theorem State.ret_par (s : State) (k : Kind) (m n : Nat) : (s.ret k m n).par = s.par := by simp [State.ret]
@[simp] theorem State.ret_fault (s : State) (k : Kind) (m n : Nat) : (s.ret k m n).fault = s.fault := by simp [State.ret]
@[simp] theorem State.ret_pstate (s : State) (k : Kind) (m n : Nat) : (s.ret k m n).pstate = s.pstate := by simp [State.ret]
@[simp] theorem State.ret_deadline (s : State) (k : Kind) (m n : Nat) : (s.ret k m n).deadline = s.deadline := by simp [State.ret]
@[simp] theorem State.ret_toErr (s : State) (k : Kind) (m n : Nat) : (s.ret k m n).toErr = s.toErr := by simp [State.ret]
@[simp] theorem State.ret_per (s : State) (k : Kind) (m n : Nat) : (s.ret k m n).per = s.per := by simp [State.ret]
@[simp] theorem State.ret_now (s : State) (k : Kind) (m n : Nat) : (s.ret k m n).now = s.now := by simp [State.ret]
@[simp] theorem State.ret_actor (s : State) (k : Kind) (m n : Nat) : (s.ret k m n).actor = s.actor := by simp [State.ret]
@[simp] theorem State.ret_inputs (s : State) (k : Kind) (m n : Nat) : (s.ret k m n).inputs = s.inputs := by simp [State.ret]
@[simp] theorem State.ret_draws (s : State) (k : Kind) (m n : Nat) : (s.ret k m n).draws = s.draws := by simp [State.ret]
@[simp] theorem State.ret_tx (s : State) (k : Kind) (m n : Nat) : (s.ret k m n).tx = s.tx := by simp [State.ret]
@[simp] theorem State.ret_rx (s : State) (k : Kind) (m n : Nat) : (s.ret k m n).rx = s.rx := by simp [State.ret]
@[simp] theorem State.ret_buf (s : State) (k : Kind) (m n : Nat) (x : BufSel) : (s.ret k m n).buf x = s.buf x := by cases x <;> simp [State.buf]

@[simp] theorem State.raise_par (s : State) (st : Status) (m n : Nat) : (s.raise st m n).par = s.par := by simp [State.raise]
@[simp] theorem State.raise_fault (s : State) (st : Status) (m n : Nat) : (s.raise st m n).fault = s.fault := by simp [State.raise]
@[simp] theorem State.raise_pstate (s : State) (st : Status) (m n : Nat) : (s.raise st m n).pstate = s.pstate := by simp [State.raise]
@[simp] theorem State.raise_deadline (s : State) (st : Status) (m n : Nat) : (s.raise st m n).deadline = s.deadline := by simp [State.raise]
@[simp] theorem State.raise_toErr (s : State) (st : Status) (m n : Nat) : (s.raise st m n).toErr = s.toErr := by simp [State.raise]
@[simp] theorem State.raise_per (s : State) (st : Status) (m n : Nat) : (s.raise st m n).per = s.per := by simp [State.raise]
@[simp] theorem State.raise_now (s : State) (st : Status) (m n : Nat) : (s.raise st m n).now = s.now := by simp [State.raise]
@[simp] theorem State.raise_actor (s : State) (st : Status) (m n : Nat) : (s.raise st m n).actor = s.actor := by simp [State.raise]
@[simp] theorem State.raise_inputs (s : State) (st : Status) (m n : Nat) : (s.raise st m n).inputs = s.inputs := by simp [State.raise]
@[simp] theorem State.raise_draws (s : State) (st : Status) (m n : Nat) : (s.raise st m n).draws = s.draws := by simp [State.raise]
@[simp] theorem State.raise_tx (s : State) (st : Status) (m n : Nat) : (s.raise st m n).tx = s.tx := by simp [State.raise]
@[simp] theorem State.raise_rx (s : State) (st : Status) (m n : Nat) : (s.raise st m n).rx = s.rx := by simp [State.raise]
@[simp] theorem State.raise_buf (s : State) (st : Status) (m n : Nat) (x : BufSel) : (s.raise st m n).buf x = s.buf x := by cases x <;> simp [State.buf]

@[simp] theorem State.refuse_par (s : State) (st : Status) : (s.refuse st).par = s.par := by simp [State.refuse]
@[simp] theorem State.refuse_fault (s : State) (st : Status) : (s.refuse st).fault = s.fault := by simp [State.refuse]
@[simp] theorem State.refuse_pstate (s : State) (st : Status) : (s.refuse st).pstate = s.pstate := by simp [State.refuse]
@[simp] theorem State.refuse_deadline (s : State) (st : Status) : (s.refuse st).deadline = s.deadline := by simp [State.refuse]
@[simp] theorem State.refuse_toErr (s : State) (st : Status) : (s.refuse st).toErr = s.toErr := by simp [State.refuse]
@[simp] theorem State.refuse_per (s : State) (st : Status) : (s.refuse st).per = s.per := by simp [State.refuse]
@[simp] theorem State.refuse_now (s : State) (st : Status) : (s.refuse st).now = s.now := by simp [State.refuse]
@[simp] theorem State.refuse_actor (s : State) (st : Status) : (s.refuse st).actor = s.actor := by simp [State.refuse]
@[simp] theorem State.refuse_inputs (s : State) (st : Status) : (s.refuse st).inputs = s.inputs := by simp [State.refuse]
@[simp] theorem State.refuse_draws (s : State) (st : Status) : (s.refuse st).draws = s.draws := by simp [State.refuse]
@[simp] theorem State.refuse_tx (s : State) (st : Status) : (s.refuse st).tx = s.tx := by simp [State.refuse]
@[simp] theorem State.refuse_rx (s : State) (st : Status) : (s.refuse st).rx = s.rx := by simp [State.refuse]
@[simp] theorem State.refuse_buf (s : State) (st : Status) (x : BufSel) : (s.refuse st).buf x = s.buf x := by cases x <;> simp [State.buf]

@[simp] theorem State.begin_par (s : State) (ms : List Micro) (r : Option Response) : (s.begin ms r).par = s.par := by simp [State.begin]
@[simp] theorem State.begin_fault (s : State) (ms : List Micro) (r : Option Response) : (s.begin ms r).fault = s.fault := by simp [State.begin]
@[simp] theorem State.begin_pstate (s : State) (ms : List Micro) (r : Option Response) : (s.begin ms r).pstate = s.pstate := by simp [State.begin]
@[simp] theorem State.begin_deadline (s : State) (ms : List Micro) (r : Option Response) : (s.begin ms r).deadline = s.deadline := by simp [State.begin]
@[simp] theorem State.begin_toErr (s : State) (ms : List Micro) (r : Option Response) : (s.begin ms r).toErr = s.toErr := by simp [State.begin]
@[simp] theorem State.begin_per (s : State) (ms : List Micro) (r : Option Response) : (s.begin ms r).per = s.per := by simp [State.begin]
@[simp] theorem State.begin_now (s : State) (ms : List Micro) (r : Option Response) : (s.begin ms r).now = s.now := by simp [State.begin]
@[simp] theorem State.begin_actor (s : State) (ms : List Micro) (r : Option Response) : (s.begin ms r).actor = s.actor := by simp [State.begin]
@[simp] theorem State.begin_inputs (s : State) (ms : List Micro) (r : Option Response) : (s.begin ms r).inputs = s.inputs := by simp [State.begin]
@[simp] theorem State.begin_draws (s : State) (ms : List Micro) (r : Option Response) : (s.begin ms r).draws = s.draws := by simp [State.begin]
@[simp] theorem State.begin_tx (s : State) (ms : List Micro) (r : Option Response) : (s.begin ms r).tx = s.tx := by simp [State.begin]
@[simp] theorem State.begin_rx (s : State) (ms : List Micro) (r : Option Response) : (s.begin ms r).rx = s.rx := by simp [State.begin]
@[simp] theorem State.begin_buf (s : State) (ms : List Micro) (r : Option Response) (x : BufSel) : (s.begin ms r).buf x = s.buf x := by cases x <;> simp [State.buf]

@[simp] theorem State.setErr_buf (s : State) (b : BufSel) : (s.setErr b).buf b = { s.buf b with err := true } := by
  simp [State.setErr]

@[simp] theorem State.clearErr_buf (s : State) (b : BufSel) : (s.clearErr b).buf b = { s.buf b with err := false } := by
  simp [State.clearErr]

@[simp] theorem State.setPut_buf (s : State) (b : BufSel) (n : Nat) :
    (s.setPut b n).buf b = { s.buf b with put := half n } := by
  simp [State.setPut]

@[simp] theorem State.setGet_buf (s : State) (b : BufSel) (n : Nat) :
    (s.setGet b n).buf b = { s.buf b with get := half n } := by
  simp [State.setGet]

@[simp] theorem State.setCur_buf (s : State) (b : BufSel) (n : Nat) :
    (s.setCur b n).buf b = { s.buf b with cur := half n } := by
  simp [State.setCur]

@[simp] theorem State.respond_out (s : State) (r : Response) : ((s.respond r).lane s.actor).out = some r := by
  simp [State.respond]

/-- A response changes nothing of any lane but `out`. -/
@[simp] theorem State.respond_todo (s : State) (r : Response) (x : Agent) :
    ((s.respond r).lane x).todo = (s.lane x).todo := by
  unfold State.respond
  cases s.actor <;> cases x <;> rfl

@[simp] theorem State.ret_todo (s : State) (k : Kind) (m n : Nat) (x : Agent) :
    ((s.ret k m n).lane x).todo = (s.lane x).todo := by
  simp [State.ret]

@[simp] theorem State.raise_todo (s : State) (st : Status) (m n : Nat) (x : Agent) :
    ((s.raise st m n).lane x).todo = (s.lane x).todo := by
  simp [State.raise]

@[simp] theorem State.refuse_todo (s : State) (st : Status) (x : Agent) :
    ((s.refuse st).lane x).todo = (s.lane x).todo := by
  simp [State.refuse]

@[simp] theorem State.begin_lane (s : State) (ms : List Micro) (r : Option Response) :
    (s.begin ms r).lane s.actor = ⟨ms, r, none⟩ := by
  simp [State.begin]

end Sys2Proof.Machine
end

