-- ==== Sys2Proof/Laws/Ring.lean ====
section
/-! SUPPORT. The arithmetic of the ring: what `inc` and `add` are below `cap`, and how each change of an offset moves `count`,
`free` and the held region. -/

namespace Sys2Proof.Machine

/-- `inc` below `cap`. -/
theorem Buffer.inc_eq {q : Buffer} {x : Nat} (h : x < q.cap.toNat) :
    q.inc x = if x + 1 = q.cap.toNat then 0 else x + 1 := by
  unfold Buffer.inc
  split
  · rename_i h1
    rw [h1, Nat.mod_self]
  · exact Nat.mod_eq_of_lt (by omega)

/-- `add` below `cap`, for a distance of at most `cap`. -/
theorem Buffer.add_eq {q : Buffer} {x n : Nat} (h : x < q.cap.toNat) (hn : n ≤ q.cap.toNat) :
    q.add x n = if x + n < q.cap.toNat then x + n else x + n - q.cap.toNat := by
  unfold Buffer.add
  split
  · rename_i h1
    exact Nat.mod_eq_of_lt h1
  · rw [Nat.mod_eq_sub_mod (by omega)]
    exact Nat.mod_eq_of_lt (by omega)

theorem Buffer.inc_lt {q : Buffer} {x : Nat} (h : 0 < q.cap.toNat) : q.inc x < q.cap.toNat := Nat.mod_lt _ h

theorem Buffer.add_lt {q : Buffer} {x n : Nat} (h : 0 < q.cap.toNat) : q.add x n < q.cap.toNat := Nat.mod_lt _ h

theorem Buffer.cap_lt (q : Buffer) : q.cap.toNat < 65536 := q.cap.isLt

theorem Buffer.cap_pos {q : Buffer} (h : q.cap ≠ 0) : 0 < q.cap.toNat := by
  rcases Nat.eq_zero_or_pos q.cap.toNat with h0 | h0
  · exact absurd (BitVec.eq_of_toNat_eq h0) h
  · exact h0

/-- The register written with `inc`. -/
theorem Buffer.half_inc {q : Buffer} {x : Nat} (h : 0 < q.cap.toNat) : (half (q.inc x)).toNat = q.inc x :=
  half_toNat (Nat.lt_trans (Buffer.inc_lt h) q.cap_lt)

/-- The register written with `add`. -/
theorem Buffer.half_add {q : Buffer} {x n : Nat} (h : 0 < q.cap.toNat) : (half (q.add x n)).toNat = q.add x n :=
  half_toNat (Nat.lt_trans (Buffer.add_lt h) q.cap_lt)

theorem Buffer.isEmpty_iff (q : Buffer) : q.isEmpty = true ↔ q.put.toNat = q.get.toNat := by
  simp [Buffer.isEmpty, BitVec.toNat_inj]

theorem Buffer.isFull_iff (q : Buffer) : q.isFull = true ↔ q.inc q.put.toNat = q.get.toNat := by
  simp [Buffer.isFull]

/-- An offset in the held region, as an interval (R25). -/
theorem Buffer.holds_iff {q : Buffer} (hp : q.put.toNat < q.cap.toNat) (hg : q.get.toNat < q.cap.toNat) (x : Nat) :
    q.holds x ↔
      (q.get.toNat ≤ q.put.toNat ∧ q.get.toNat ≤ x ∧ x < q.put.toNat) ∨
        (q.put.toNat < q.get.toNat ∧ (x < q.put.toNat ∨ (q.get.toNat ≤ x ∧ x < q.cap.toNat))) := by
  simp only [Buffer.holds, Buffer.count]
  constructor
  · rintro ⟨k, hk, rfl⟩
    split at hk <;> rw [Buffer.add_eq hg (by omega)] <;> split <;> omega
  · intro h
    by_cases hx : q.get.toNat ≤ x
    · refine ⟨x - q.get.toNat, ?_, ?_⟩
      · split <;> omega
      · rw [Buffer.add_eq hg (by omega)]
        split <;> omega
    · refine ⟨x + q.cap.toNat - q.get.toNat, ?_, ?_⟩
      · split <;> omega
      · rw [Buffer.add_eq hg (by omega)]
        split <;> omega

end Sys2Proof.Machine
end

