-- ==== Sys2Proof/Laws/Buffers.lean ====
section
/-! SUPPORT. Each way a rule changes a Buffer keeps `Buffer.ok`, and keeps the space of the pending micro-steps (10_state.md
R24, R29; 20_memory.md R61). -/

namespace Sys2Proof.Machine

open Sys2Proof.Config

variable {q : Buffer} {p : BufParams} {m : Nat}

/-- Raising or clearing `err` changes nothing that `ok` speaks of (R28). -/
theorem Buffer.ok_err (h : q.ok p m) (e : Bool) : Buffer.ok { q with err := e } p m := h

/-- The consumer moves `get` to `x`: forward through held bytes, or to `put` (R61). -/
theorem Buffer.ok_get (h : q.ok p m) {x : Nat} (hx : x < q.cap.toNat)
    (hc : Buffer.count { q with get := half x } ≤ q.count) : Buffer.ok { q with get := half x } p m := by
  obtain ⟨⟨h1, h2⟩, h3, h4⟩ := h
  have hlt := q.cap_lt
  have hg : (half x).toNat = x := half_toNat (by omega)
  refine ⟨⟨fun h0 => ⟨(h1 h0).1, by simpa only [hg] using hx⟩, fun h0 => ?_⟩, fun h0 => ?_, h4⟩
  · have : q.cap = 0 := h0
    simp [this] at hx
  · have := h3 h0
    refine ⟨this.1, Nat.le_trans this.2 ?_⟩
    unfold Buffer.free
    exact Nat.sub_le_sub_left hc _

/-- The consumer's move keeps the space of what the producer has pending, provided `get` does not pass `put` (R61). -/
theorem Buffer.room_get {ms : List Micro} (h : q.room ms) {x : Nat} (hx : x < 65536)
    (hc : Buffer.count { q with get := half x } ≤ q.count)
    (hle : q.get.toNat ≤ q.put.toNat → q.get.toNat ≤ x ∧ x ≤ q.put.toNat) :
    Buffer.room { q with get := half x } ms := by
  have hg : (half x).toNat = x := half_toNat hx
  have hf : q.free ≤ Buffer.free { q with get := half x } := Nat.sub_le_sub_left hc _
  unfold Buffer.room at h ⊢
  split <;> simp only [hg] at *
  · omega
  · exact Nat.le_trans h hf

/-- Taking `n` of the held bytes (R120, R123, R191). -/
theorem Buffer.take_props (hp : q.put.toNat < q.cap.toNat) (hg : q.get.toNat < q.cap.toNat) {n : Nat} (hn : n ≤ q.count) :
    q.add q.get.toNat n < q.cap.toNat ∧
      Buffer.count { q with get := half (q.add q.get.toNat n) } = q.count - n ∧
      (q.get.toNat ≤ q.put.toNat → q.get.toNat ≤ q.add q.get.toNat n ∧ q.add q.get.toNat n ≤ q.put.toNat) := by
  have hlt := Buffer.add_lt (q := q) (x := q.get.toNat) (n := n) (by omega)
  have hcap := q.cap_lt
  have he : q.add q.get.toNat n = _ := Buffer.add_eq hg (n := n) (by unfold Buffer.count at hn; split at hn <;> omega)
  have hh : (half (q.add q.get.toNat n)).toNat = q.add q.get.toNat n := half_toNat (by omega)
  generalize q.add q.get.toNat n = x at *
  refine ⟨hlt, ?_, ?_⟩
  · simp only [Buffer.count, hh] at hn ⊢
    split at hn <;> split at he <;> split <;> omega
  · simp only [Buffer.count] at hn
    split at hn <;> split at he <;> omega

/-- A filler is removed: `get <- 0` (R165). -/
theorem Buffer.unfill_props (hg : q.get.toNat < q.cap.toNat) (h : q.put.toNat < q.get.toNat) :
    Buffer.count { q with get := half 0 } ≤ q.count := by
  have hh : (half 0).toNat = 0 := rfl
  simp only [Buffer.count, hh]
  split <;> split <;> omega

/-- One byte is stored at `put`, and `put` advances (R60, R118). -/
theorem Buffer.ok_put (h : q.ok p m) (hc : q.cap ≠ 0) (hs : q.shv = false) (v : Byte) :
    Buffer.ok { q with store := Memory.write q.store q.put.toNat v, put := half (q.inc q.put.toNat) } p m := by
  obtain ⟨⟨h1, h2⟩, h3, h4, h5, h6⟩ := h
  have hi := Buffer.half_inc (q := q) (x := q.put.toNat) (Buffer.cap_pos hc)
  have hl := Buffer.inc_lt (q := q) (x := q.put.toNat) (Buffer.cap_pos hc)
  refine ⟨⟨fun h0 => ⟨by simpa only [hi] using hl, (h1 h0).2⟩, fun h0 => absurd h0 hc⟩, fun h0 => ?_, h4, ?_, ?_⟩
  · simp [hs] at h0
  · exact Memory.wf_write h5 _ _
  · exact Memory.below_write h6 (Nat.lt_of_lt_of_le (h1 hc).1 (h4 hc).2) _

/-- What a put does to `count` and `free` (R129). -/
theorem Buffer.put_counts (hp : q.put.toNat < q.cap.toNat) (hg : q.get.toNat < q.cap.toNat)
    (hfull : q.isFull = false) (st : Memory) :
    Buffer.count { q with store := st, put := half (q.inc q.put.toNat) } = q.count + 1 ∧
      Buffer.free { q with store := st, put := half (q.inc q.put.toNat) } + 1 = q.free := by
  have hcap := q.cap_lt
  have hi := Buffer.half_inc (q := q) (x := q.put.toNat) (by omega)
  have he := Buffer.inc_eq hp
  have hf : ¬ q.inc q.put.toNat = q.get.toNat := by
    intro h
    simp [(Buffer.isFull_iff q).2 h] at hfull
  generalize q.inc q.put.toNat = x at *
  simp only [Buffer.free, Buffer.count, hi]
  constructor
  · split at he <;> split <;> split <;> omega
  · split at he <;> split <;> split <;> omega

/-- A full buffer has no free byte (R130). -/
theorem Buffer.isFull_iff_free (hp : q.put.toNat < q.cap.toNat) (hg : q.get.toNat < q.cap.toNat) :
    q.isFull = true ↔ q.free = 0 := by
  rw [Buffer.isFull_iff, Buffer.inc_eq hp]
  unfold Buffer.free Buffer.count
  split <;> split <;> omega

/-- The filler micro-step (R60): the marker is stored at `put`, and `put` goes to 0. -/
theorem Buffer.ok_fill (h : q.ok p m) (hc : q.cap ≠ 0) (hs : q.shv = false) (v : Byte) :
    Buffer.ok { q with store := Memory.write q.store q.put.toNat v, put := half 0 } p m := by
  obtain ⟨⟨h1, h2⟩, h3, h4, h5, h6⟩ := h
  refine ⟨⟨fun h0 => ⟨Buffer.cap_pos hc, (h1 h0).2⟩, fun h0 => absurd h0 hc⟩, fun h0 => ?_, h4, ?_, ?_⟩
  · simp [hs] at h0
  · exact Memory.wf_write h5 _ _
  · exact Memory.below_write h6 (Nat.lt_of_lt_of_le (h1 hc).1 (h4 hc).2) _

/-- After the filler the head region holds the rest (R164). -/
theorem Buffer.fill_free (hg : q.get.toNat < q.cap.toNat) (h0 : 0 < q.get.toNat) (st : Memory) :
    Buffer.free { q with store := st, put := half 0 } + 1 = q.get.toNat := by
  have hh : (half 0).toNat = 0 := rfl
  simp only [Buffer.free, Buffer.count, hh]
  split <;> omega

/-- `INIT` makes a Buffer that is ok (R113). -/
theorem Buffer.ok_configured (h : q.ok p m) {cap : Half} (hc : cap ≠ 0) (hm : m ≤ cap.toNat) (hs : cap.toNat ≤ p.storeSize)
    (t : BufType) (f : Format) : Buffer.ok (q.configured cap t f) p m := by
  obtain ⟨_, _, h4, h5, h6⟩ := h
  have hp : 0 < cap.toNat := Buffer.cap_pos (q := { q with cap := cap }) hc
  exact ⟨⟨fun _ => ⟨hp, hp⟩, fun _ => ⟨rfl, rfl, rfl⟩⟩, fun h0 => by simp [Buffer.configured] at h0, fun _ => ⟨hm, hs⟩, h5, h6⟩

/-- `SH_BEGIN` (R151). -/
theorem Buffer.ok_shBegin (h : q.ok p m) (hc : q.cap ≠ 0) : Buffer.ok { q with cur := q.put, shv := true } p m := by
  obtain ⟨⟨h1, h2⟩, h3, h4⟩ := h
  refine ⟨⟨h1, fun h0 => absurd h0 hc⟩, fun _ => ⟨(h1 hc).1, ?_⟩, h4⟩
  simp [Buffer.shadowed]

/-- `SH_WRITE` (R152): where the cursor does not run into `get`. -/
theorem Buffer.ok_shWrite (h : q.ok p m) (hc : q.cap ≠ 0) (hs : q.shv = true) (hne : q.inc q.cur.toNat ≠ q.get.toNat)
    (v : Byte) :
    Buffer.ok { q with store := Memory.write q.store q.cur.toNat v, cur := half (q.inc q.cur.toNat) } p m := by
  obtain ⟨⟨h1, h2⟩, h3, h4, h5, h6⟩ := h
  obtain ⟨hcur, hsh⟩ := h3 hs
  obtain ⟨hp, hg⟩ := h1 hc
  have hi := Buffer.half_inc (q := q) (x := q.cur.toNat) (Buffer.cap_pos hc)
  refine ⟨⟨h1, h2⟩, fun _ => ⟨by simpa only [hi] using Buffer.inc_lt (Buffer.cap_pos hc), ?_⟩, h4,
    Memory.wf_write h5 _ _, Memory.below_write h6 (Nat.lt_of_lt_of_le hcur (h4 hc).2) _⟩
  have he := Buffer.inc_eq hcur
  generalize q.inc q.cur.toNat = x at *
  simp only [Buffer.shadowed, Buffer.free, Buffer.count, hi] at hsh ⊢
  split at hsh <;> split at hsh <;> split at he <;> split <;> omega

/-- The shadow cursor is outside the held region (R152). -/
theorem Buffer.cur_not_held (h : q.ok p m) (hc : q.cap ≠ 0) (hs : q.shv = true) (hne : q.inc q.cur.toNat ≠ q.get.toNat) :
    ¬ q.holds q.cur.toNat := by
  obtain ⟨⟨h1, h2⟩, h3, h4⟩ := h
  obtain ⟨hcur, hsh⟩ := h3 hs
  obtain ⟨hp, hg⟩ := h1 hc
  rw [Buffer.holds_iff hp hg]
  have he := Buffer.inc_eq hcur
  simp only [Buffer.shadowed, Buffer.free, Buffer.count, he] at hsh hne
  split at hsh <;> split at hsh <;> split at hne <;> omega

/-- The put offset is outside the held region (R25). -/
theorem Buffer.put_not_held (hp : q.put.toNat < q.cap.toNat) (hg : q.get.toNat < q.cap.toNat) : ¬ q.holds q.put.toNat := by
  rw [Buffer.holds_iff hp hg]
  omega

/-- `SH_COMMIT` (R153). -/
theorem Buffer.ok_shCommit (h : q.ok p m) (hc : q.cap ≠ 0) (hs : q.shv = true) :
    Buffer.ok { q with put := q.cur, shv := false } p m := by
  obtain ⟨⟨h1, h2⟩, h3, h4⟩ := h
  exact ⟨⟨fun h0 => ⟨(h3 hs).1, (h1 h0).2⟩, fun h0 => absurd h0 hc⟩, fun h0 => by simp at h0, h4⟩

/-- `PKT_PUT` places a packet only where it fits (R164). -/
theorem Buffer.placePacket_room (hp : q.put.toNat < q.cap.toNat) (hg : q.get.toNat < q.cap.toNat) {need : Nat} :
    (q.placePacket need = some false → need ≤ q.free) ∧
      (q.placePacket need = some true → q.get.toNat ≤ q.put.toNat ∧ need + 1 ≤ q.get.toNat) := by
  unfold Buffer.placePacket Buffer.tailSpan Buffer.free Buffer.count
  repeat' split
  all_goals simp
  all_goals omega

end Sys2Proof.Machine
end

