-- ==== Sys2Proof/Laws/Encoding.lean ====
section
/-! SUPPORT. The fields of an assembled command word (30_encoding.md R80). -/

namespace Sys2Proof

variable (op : BitVec 8) (b : BufSel) (aux : BitVec 7) (arg : Half)

@[simp] theorem argField_assemble : argField (assemble op b aux arg) = arg := by
  unfold argField assemble
  apply BitVec.eq_of_getLsbD_eq
  intro i hi
  simp only [BitVec.getLsbD_extractLsb', BitVec.getLsbD_append]
  simp [hi]

@[simp] theorem auxField_assemble : auxField (assemble op b aux arg) = aux := by
  unfold auxField assemble
  apply BitVec.eq_of_getLsbD_eq
  intro i hi
  simp only [BitVec.getLsbD_extractLsb', BitVec.getLsbD_append]
  simp [hi]

@[simp] theorem bufField_assemble : bufField (assemble op b aux arg) = b.bit := by
  unfold bufField assemble
  apply BitVec.eq_of_getLsbD_eq
  intro i hi
  simp only [BitVec.getLsbD_extractLsb', BitVec.getLsbD_append]
  simp [show i = 0 by omega]

@[simp] theorem opField_assemble : opField (assemble op b aux arg) = op := by
  unfold opField assemble
  apply BitVec.eq_of_getLsbD_eq
  intro i hi
  simp only [BitVec.getLsbD_extractLsb', BitVec.getLsbD_append]
  simp [hi, show ¬ (24 + i < 16) by omega, show ¬ (24 + i - 16 < 7) by omega, show ¬ (24 + i - 16 - 7 = 0) by omega,
    show 24 + i - 16 - 7 - 1 = i by omega]

@[simp] theorem BufSel.ofBit_bit (b : BufSel) : BufSel.ofBit b.bit = b := by
  cases b <;> rfl

/-- The number of payload beats that an assembled word announces (R86). -/
theorem beatCount_assemble : beatCount (assemble op b aux arg) = if op = 0x20#8 then arg.toNat else 0 := by
  simp [beatCount]

/-- The byte operand and the bits above it, from the `ARG` field (R81). -/
theorem byteField_eq (w : Word) :
    byteField w = (argField w).extractLsb' 0 8 ∧ w.extractLsb' 8 8 = (argField w).extractLsb' 8 8 := by
  constructor
  · apply BitVec.eq_of_getLsbD_eq
    intro i hi
    simp [byteField, argField, hi]
  · apply BitVec.eq_of_getLsbD_eq
    intro i hi
    simp [argField, hi]

/-- The operands of `INIT`, from the `AUX` field (R85). -/
theorem initFields_eq (w : Word) :
    w.extractLsb' 16 2 = (auxField w).extractLsb' 0 2 ∧ w.extractLsb' 18 3 = (auxField w).extractLsb' 2 3 ∧
      w.extractLsb' 21 2 = (auxField w).extractLsb' 5 2 := by
  refine ⟨?_, ?_, ?_⟩ <;>
  · apply BitVec.eq_of_getLsbD_eq
    intro i hi
    simp [auxField, BitVec.getLsbD_extractLsb', hi, ← Nat.add_assoc]
    omega

end Sys2Proof
end

