-- ==== Sys2Proof/Laws/Ops.lean ====
section
/-! SUPPORT. What each shared operation of Machine/Ops.lean and Machine/Schedule.lean can do, said once. -/

namespace Sys2Proof.Machine

open Sys2Proof.Config

variable {s t : State} {b : BufSel} {off : Nat} {v : Byte}

/-! ## Storage access -/

/-- A read changes at most the counter of free draws (20_memory.md R67). -/
theorem State.afterRead_eq (s : State) (b : BufSel) (off : Nat) :
    ∃ d, s.afterRead b off = { s with draws := d } ∧ s.draws ≤ d ∧ d ≤ s.draws + 1 := by
  unfold State.afterRead
  split
  · exact ⟨s.draws, rfl, Nat.le_refl _, Nat.le_succ _⟩
  · exact ⟨s.draws + 1, rfl, Nat.le_succ _, Nat.le_refl _⟩

/-- A byte that has been written since reset reads as it was written, and nothing changes. -/
theorem State.read_written (h : Memory.read (s.buf b).store off = some v) :
    s.byteAt b off = v ∧ s.afterRead b off = s := by
  simp [State.byteAt, State.afterRead, h]

/-- A byte that nothing has written since reset is a free draw, and the next draw is another one (R66). -/
theorem State.read_unwritten (h : Memory.read (s.buf b).store off = none) :
    s.byteAt b off = freeByte s.draws ∧ s.afterRead b off = { s with draws := s.draws + 1 } := by
  simp [State.byteAt, State.afterRead, h]

theorem State.withByte_below {k : Byte → State → Result} (h : off < (s.buf b).cap.toNat) :
    s.withByte b off k = k (s.byteAt b off) (s.afterRead b off) := if_pos h

theorem State.withWrite_below {k : State → Result} (h : off < (s.buf b).cap.toNat) :
    s.withWrite b off v k = k (s.setBuf b { s.buf b with store := Memory.write (s.buf b).store off v }) := if_pos h

/-- If a read answers a next state, the offset was below `cap`. -/
theorem State.withByte_next {k : Byte → State → Result} (h : s.withByte b off k = .next t) :
    off < (s.buf b).cap.toNat ∧ k (s.byteAt b off) (s.afterRead b off) = .next t := by
  unfold State.withByte at h
  split at h
  · exact ⟨by assumption, h⟩
  · cases h

theorem State.withWrite_next {k : State → Result} (h : s.withWrite b off v k = .next t) :
    off < (s.buf b).cap.toNat ∧
      k (s.setBuf b { s.buf b with store := Memory.write (s.buf b).store off v }) = .next t := by
  unfold State.withWrite at h
  split at h
  · exact ⟨by assumption, h⟩
  · cases h

/-- The buffer after `uput` (20_memory.md R60). -/
theorem State.withPut_below {k : State → Result} (h : (s.buf b).put.toNat < (s.buf b).cap.toNat) :
    s.withPut b v k =
      k (s.setBuf b { s.buf b with
        store := Memory.write (s.buf b).store (s.buf b).put.toNat v
        put := half ((s.buf b).inc (s.buf b).put.toNat) }) := by
  unfold State.withPut
  rw [State.withWrite_below h]
  cases b <;> rfl

/-- The buffer after `fill` (20_memory.md R60). -/
theorem State.withFill_below {k : State → Result} (h : (s.buf b).put.toNat < (s.buf b).cap.toNat) :
    s.withFill b k =
      k (s.setBuf b { s.buf b with
        store := Memory.write (s.buf b).store (s.buf b).put.toNat 0xFF#8
        put := half 0 }) := by
  unfold State.withFill
  rw [State.withWrite_below h]
  cases b <;> rfl

/-! ## Entry checks -/

theorem State.portRefusal_accepts {side : Side} (h : s.accepts side b) : s.portRefusal side b = none := by
  simp [State.portRefusal, h]

theorem State.entryRefusal_ready {side : Side} (h : s.ready side b) : s.entryRefusal side b = none := by
  simp only [State.entryRefusal, State.portRefusal_accepts h.1, if_neg h.2]

/-- A command that passes the entry checks runs its body. -/
theorem State.command_ready {side : Side} {body : Result} (h : s.ready side b) : s.command side b body = body := by
  simp [State.command, State.entryRefusal_ready h]

theorem State.commandAnytime_accepts {side : Side} {body : Result} (h : s.accepts side b) :
    s.commandAnytime side b body = body := by
  simp [State.commandAnytime, State.portRefusal_accepts h]

/-- What a command can do: run its body after passing the checks, or refuse and change nothing but the response (R110). -/
theorem State.command_cases (s : State) (side : Side) (b : BufSel) (body : Result) :
    (s.ready side b ∧ s.command side b body = body) ∨
      ∃ st, s.entryRefusal side b = some st ∧ s.command side b body = .next (s.refuse st) := by
  by_cases h : s.ready side b
  · exact .inl ⟨h, State.command_ready h⟩
  · right
    unfold State.command
    cases hr : s.entryRefusal side b with
    | some st => exact ⟨st, rfl, rfl⟩
    | none =>
      exfalso
      apply h
      simp only [State.entryRefusal, State.portRefusal] at hr
      split at hr
      · cases hr
      · rename_i hp
        split at hp <;> try cases hp
        split at hp <;> try cases hp
        split at hp <;> try cases hp
        split at hr <;> try cases hr
        simp_all [State.accepts]

theorem State.commandAnytime_cases (s : State) (side : Side) (b : BufSel) (body : Result) :
    (s.accepts side b ∧ s.commandAnytime side b body = body) ∨
      ∃ st, s.portRefusal side b = some st ∧ s.commandAnytime side b body = .next (s.refuse st) := by
  by_cases h : s.accepts side b
  · exact .inl ⟨h, State.commandAnytime_accepts h⟩
  · right
    unfold State.commandAnytime
    cases hr : s.portRefusal side b with
    | some st => exact ⟨st, rfl, rfl⟩
    | none =>
      exfalso
      apply h
      simp only [State.portRefusal] at hr
      split at hr <;> try cases hr
      split at hr <;> try cases hr
      split at hr <;> try cases hr
      simp_all [State.accepts]

/-! ## Responses -/

theorem State.ret_out (s : State) (kind : Kind) (m n : Nat) :
    ((s.ret kind m n).lane s.actor).out = some { st := .ok, kind := kind, a := half m, b := half n } := by
  simp [State.ret]

theorem State.raise_out (s : State) (st : Status) (m n : Nat) :
    ((s.raise st m n).lane s.actor).out = some { st := st, kind := .none, a := half m, b := half n } := by
  simp [State.raise]

theorem State.refuse_out (s : State) (st : Status) :
    ((s.refuse st).lane s.actor).out = some { st := st, kind := .none, a := 0, b := 0 } := by
  simp [State.refuse, State.raise, half]

/-! ## Scheduling -/

/-- A command on the port of an agent that has nothing pending, with no interrupt event in progress, is accepted. -/
theorem State.plan_cmd {port : Port} {w : Word} {beats : List Byte} {rest : List Input} (hp : s.par.ok = true)
    (hin : s.inputs = .cmd port w beats :: rest) (ha : hasAgent s.par.kind port.agent = true)
    (hb : beats.length = beatCount w) (hi : s.laneI.todo = []) (hl : (s.lane port.agent).todo = []) :
    s.plan = .run (.cmd w beats) { s with inputs := rest, actor := port.agent } := by
  have he : s.endDrain = s := by
    unfold State.endDrain
    split
    · rfl
    · simp only [← hi]
  simp [State.plan, hp, hin, Input.agent, ha, he, State.planAgent, State.pending, hi, hl, hb]

end Sys2Proof.Machine
end

