-- ==== Sys2Proof/Laws/PerInstr.lean ====
section
/-! SUPPORT. Families of statements about every instruction, one lemma per constructor of `Instr`. -/

namespace Sys2Proof.Laws

/-- What the encoder writes (30_encoding.md R80, R86, R87, R91): the opcode of the instruction's row, the buffer it selects, and
as many payload beats as the word announces; for an event, its strobe. -/
def EncodedFields.Statement (i : Instr) : Prop :=
  i.wf = true →
    match encode i with
    | .cmd w beats =>
      opField w = (opcodeRow i).1.extractLsb' 24 8 ∧ bufField w = (Machine.bufOf i).bit ∧ beats.length = beatCount w
    | .ev v => v = (opcodeRow i).1.extractLsb' 0 3

/-- A command other than `PKT_PUT`: it has no payload beats. -/
theorem EncodedFields.plain {i : Instr} {op : BitVec 8} {b : BufSel} {aux : BitVec 7} {arg : Half}
    (he : encode i = .cmd (assemble op b aux arg) []) (ho : op = (opcodeRow i).1.extractLsb' 24 8)
    (hb : b = Machine.bufOf i) (hp : op ≠ 0x20#8) : EncodedFields.Statement i := by
  intro _
  rw [he]
  simp [beatCount_assemble, ← ho, hb, hp]

theorem EncodedFields.init (b : BufSel) (cap : Half) (typ : BitVec 2) (fmt : BitVec 3) : EncodedFields.Statement (.init b cap typ fmt) :=
  EncodedFields.plain rfl (by simp [opcodeRow]) rfl (by decide)

theorem EncodedFields.isempty (b : BufSel) : EncodedFields.Statement (.isempty b) :=
  EncodedFields.plain rfl (by simp [opcodeRow]) rfl (by decide)

theorem EncodedFields.isfull (b : BufSel) : EncodedFields.Statement (.isfull b) :=
  EncodedFields.plain rfl (by simp [opcodeRow]) rfl (by decide)

theorem EncodedFields.count (b : BufSel) : EncodedFields.Statement (.count b) :=
  EncodedFields.plain rfl (by simp [opcodeRow]) rfl (by decide)

theorem EncodedFields.free (b : BufSel) : EncodedFields.Statement (.free b) :=
  EncodedFields.plain rfl (by simp [opcodeRow]) rfl (by decide)

theorem EncodedFields.putb (b : BufSel) (v : Byte) : EncodedFields.Statement (.putb b v) :=
  EncodedFields.plain rfl (by simp [opcodeRow]) rfl (by decide)

theorem EncodedFields.putbu (b : BufSel) (v : Byte) : EncodedFields.Statement (.putbu b v) :=
  EncodedFields.plain rfl (by simp [opcodeRow]) rfl (by decide)

theorem EncodedFields.getb (b : BufSel) : EncodedFields.Statement (.getb b) :=
  EncodedFields.plain rfl (by simp [opcodeRow]) rfl (by decide)

theorem EncodedFields.peekb (b : BufSel) : EncodedFields.Statement (.peekb b) :=
  EncodedFields.plain rfl (by simp [opcodeRow]) rfl (by decide)

theorem EncodedFields.peekat (b : BufSel) (k : Half) : EncodedFields.Statement (.peekat b k) :=
  EncodedFields.plain rfl (by simp [opcodeRow]) rfl (by decide)

theorem EncodedFields.remove (b : BufSel) (n : Half) : EncodedFields.Statement (.remove b n) :=
  EncodedFields.plain rfl (by simp [opcodeRow]) rfl (by decide)

theorem EncodedFields.rspan (b : BufSel) : EncodedFields.Statement (.rspan b) :=
  EncodedFields.plain rfl (by simp [opcodeRow]) rfl (by decide)

theorem EncodedFields.wspan (b : BufSel) : EncodedFields.Statement (.wspan b) :=
  EncodedFields.plain rfl (by simp [opcodeRow]) rfl (by decide)

theorem EncodedFields.geterr (b : BufSel) : EncodedFields.Statement (.geterr b) :=
  EncodedFields.plain rfl (by simp [opcodeRow]) rfl (by decide)

theorem EncodedFields.clrerr (b : BufSel) : EncodedFields.Statement (.clrerr b) :=
  EncodedFields.plain rfl (by simp [opcodeRow]) rfl (by decide)

theorem EncodedFields.drd (b : BufSel) (off : Half) : EncodedFields.Statement (.drd b off) :=
  EncodedFields.plain rfl (by simp [opcodeRow]) rfl (by decide)

theorem EncodedFields.shBegin (b : BufSel) : EncodedFields.Statement (.shBegin b) :=
  EncodedFields.plain rfl (by simp [opcodeRow]) rfl (by decide)

theorem EncodedFields.shWrite (b : BufSel) (v : Byte) : EncodedFields.Statement (.shWrite b v) :=
  EncodedFields.plain rfl (by simp [opcodeRow]) rfl (by decide)

theorem EncodedFields.shCommit (b : BufSel) : EncodedFields.Statement (.shCommit b) :=
  EncodedFields.plain rfl (by simp [opcodeRow]) rfl (by decide)

theorem EncodedFields.pktPut (b : BufSel) (payload : List Byte) : EncodedFields.Statement (.pktPut b payload) := by
  intro h
  have hl : payload.length < 65536 := by simpa [Instr.wf] using h
  have hh : (half payload.length).toNat = payload.length := by
    simp only [half, BitVec.toNat_ofNat]
    exact Nat.mod_eq_of_lt hl
  simp [encode, opcodeRow, Machine.bufOf, beatCount_assemble, hh]

theorem EncodedFields.pktHas (b : BufSel) : EncodedFields.Statement (.pktHas b) :=
  EncodedFields.plain rfl (by simp [opcodeRow]) rfl (by decide)

theorem EncodedFields.pktGetc (b : BufSel) : EncodedFields.Statement (.pktGetc b) :=
  EncodedFields.plain rfl (by simp [opcodeRow]) rfl (by decide)

theorem EncodedFields.encData (b : BufSel) (v : Byte) : EncodedFields.Statement (.encData b v) :=
  EncodedFields.plain rfl (by simp [opcodeRow]) rfl (by decide)

theorem EncodedFields.encCtrl (b : BufSel) (c : Byte) : EncodedFields.Statement (.encCtrl b c) :=
  EncodedFields.plain rfl (by simp [opcodeRow]) rfl (by decide)

theorem EncodedFields.encQuote (b : BufSel) : EncodedFields.Statement (.encQuote b) :=
  EncodedFields.plain rfl (by simp [opcodeRow]) rfl (by decide)

theorem EncodedFields.encLit (b : BufSel) (v : Byte) : EncodedFields.Statement (.encLit b v) :=
  EncodedFields.plain rfl (by simp [opcodeRow]) rfl (by decide)

theorem EncodedFields.decPeek (b : BufSel) : EncodedFields.Statement (.decPeek b) :=
  EncodedFields.plain rfl (by simp [opcodeRow]) rfl (by decide)

theorem EncodedFields.decGet (b : BufSel) : EncodedFields.Statement (.decGet b) :=
  EncodedFields.plain rfl (by simp [opcodeRow]) rfl (by decide)

theorem EncodedFields.decPeekl (b : BufSel) : EncodedFields.Statement (.decPeekl b) :=
  EncodedFields.plain rfl (by simp [opcodeRow]) rfl (by decide)

theorem EncodedFields.decGetl (b : BufSel) : EncodedFields.Statement (.decGetl b) :=
  EncodedFields.plain rfl (by simp [opcodeRow]) rfl (by decide)

theorem EncodedFields.pdWriteb (v : Byte) : EncodedFields.Statement (.pdWriteb v) :=
  EncodedFields.plain rfl (by simp [opcodeRow]) rfl (by decide)

theorem EncodedFields.pdIsbusy : EncodedFields.Statement .pdIsbusy :=
  EncodedFields.plain rfl (by simp [opcodeRow]) rfl (by decide)

theorem EncodedFields.pdStatus : EncodedFields.Statement .pdStatus :=
  EncodedFields.plain rfl (by simp [opcodeRow]) rfl (by decide)

theorem EncodedFields.pdClrerr : EncodedFields.Statement .pdClrerr :=
  EncodedFields.plain rfl (by simp [opcodeRow]) rfl (by decide)

theorem EncodedFields.evRxirq : EncodedFields.Statement .evRxirq := fun _ => rfl

theorem EncodedFields.evTxirq : EncodedFields.Statement .evTxirq := fun _ => rfl

theorem EncodedFields.evTask : EncodedFields.Statement .evTask := fun _ => rfl

end Sys2Proof.Laws
end

