-- ==== Sys2Proof/Machine/Assembler.lean ====
section
/-! DEFINITION. The assembler syntax of 30_encoding.md R92, from instruction to text: numbers are written in decimal, payload
bytes in hexadecimal. The words and payload beats that the assembler emits are those of `encode`. -/

namespace Sys2Proof.Machine

open Sys2Proof.Config

/-- The mnemonic of an operation (R87, R91). -/
def mnemonic : Instr → String
  | .init .. => "INIT"
  | .isempty _ => "ISEMPTY"
  | .isfull _ => "ISFULL"
  | .count _ => "COUNT"
  | .free _ => "FREE"
  | .putb .. => "PUTB"
  | .putbu .. => "PUTBU"
  | .getb _ => "GETB"
  | .peekb _ => "PEEKB"
  | .peekat .. => "PEEKAT"
  | .remove .. => "REMOVE"
  | .rspan _ => "RSPAN"
  | .wspan _ => "WSPAN"
  | .geterr _ => "GETERR"
  | .clrerr _ => "CLRERR"
  | .drd .. => "DRD"
  | .shBegin _ => "SH_BEGIN"
  | .shWrite .. => "SH_WRITE"
  | .shCommit _ => "SH_COMMIT"
  | .pktPut .. => "PKT_PUT"
  | .pktHas _ => "PKT_HAS"
  | .pktGetc _ => "PKT_GETC"
  | .encData .. => "ENC_DATA"
  | .encCtrl .. => "ENC_CTRL"
  | .encQuote _ => "ENC_QUOTE"
  | .encLit .. => "ENC_LIT"
  | .decPeek _ => "DEC_PEEK"
  | .decGet _ => "DEC_GET"
  | .decPeekl _ => "DEC_PEEKL"
  | .decGetl _ => "DEC_GETL"
  | .pdWriteb _ => "PD_WRITEB"
  | .pdIsbusy => "PD_ISBUSY"
  | .pdStatus => "PD_STATUS"
  | .pdClrerr => "PD_CLRERR"
  | .evRxirq => "EV_RXIRQ"
  | .evTxirq => "EV_TXIRQ"
  | .evTask => "EV_TASK"

/-- The type operand of `INIT` (R85, R92). The reserved code has no name and is written as a number. -/
def typeName (c : BitVec 2) : String :=
  match BufType.ofCode c with
  | some .stream => "STREAM"
  | some .packet => "PACKET"
  | some .largePacket => "LARGE"
  | none => toString c.toNat

/-- The format operand of `INIT` (R85, R92). -/
def formatName (c : BitVec 3) : String :=
  match Format.ofCode c with
  | some .none => "NONE"
  | some .binary => "BINARY"
  | some .binaryEscaped => "BINESC"
  | some .ascii => "ASCII"
  | some .asciiEscaped => "ASCESC"
  | none => toString c.toNat

/-- A payload byte: two hexadecimal digits (R92). -/
def byteText (v : Byte) : String :=
  String.ofList ((hexPair v).map fun c => Char.ofNat c.toNat)

/-- The bracketed payload list of `PKT_PUT` (R92). -/
def payloadText (bs : List Byte) : String := "[" ++ String.intercalate " " (bs.map byteText) ++ "]"

/-- The operands (R92). The events that sample the tick are written with it: `now=<n>`. -/
def operandText (now : Word) : Instr → String
  | .init _ cap typ fmt => " " ++ toString cap.toNat ++ ", " ++ typeName typ ++ ", " ++ formatName fmt
  | .putb _ v => " " ++ toString v.toNat
  | .putbu _ v => " " ++ toString v.toNat
  | .peekat _ k => " " ++ toString k.toNat
  | .remove _ n => " " ++ toString n.toNat
  | .drd _ off => " " ++ toString off.toNat
  | .shWrite _ v => " " ++ toString v.toNat
  | .pktPut _ bs => " " ++ payloadText bs
  | .encData _ v => " " ++ toString v.toNat
  | .encCtrl _ c => " " ++ toString c.toNat
  | .encLit _ v => " " ++ toString v.toNat
  | .pdWriteb v => " " ++ toString v.toNat
  | .evTxirq => " now=" ++ toString now.toNat
  | .evTask => " now=" ++ toString now.toNat
  | .isempty _ => ""
  | .isfull _ => ""
  | .count _ => ""
  | .free _ => ""
  | .getb _ => ""
  | .peekb _ => ""
  | .rspan _ => ""
  | .wspan _ => ""
  | .geterr _ => ""
  | .clrerr _ => ""
  | .shBegin _ => ""
  | .shCommit _ => ""
  | .pktHas _ => ""
  | .pktGetc _ => ""
  | .encQuote _ => ""
  | .decPeek _ => ""
  | .decGet _ => ""
  | .decPeekl _ => ""
  | .decGetl _ => ""
  | .pdIsbusy => ""
  | .pdStatus => ""
  | .pdClrerr => ""
  | .evRxirq => ""

/-- The suffix `.T` or `.R` of a buffer operation, written only for a PortEngine (R92). -/
def suffixText (kind : EngineKind) (i : Instr) : String :=
  if kind = .bufferEngine ∨ sideOf i = .host ∨ sideOf i = .event then ""
  else match bufOf i with
    | .tx => ".T"
    | .rx => ".R"

/-- The name of a port (R92). -/
def Port.text : Port → String
  | .p => "P"
  | .g => "G"
  | .h => "H"

/-- One line of assembler text; an event stands on a line of its own, without a port (R92). -/
def asmLine (kind : EngineKind) (port : Port) (now : Word) (i : Instr) : String :=
  (if sideOf i = .event then "" else port.text ++ ": ") ++ mnemonic i ++ suffixText kind i ++ operandText now i

end Sys2Proof.Machine
end

