-- ==== Sys2Proof/Machine/Pseudo.lean ====
section
/-! DEFINITION. The pseudo-instructions of 30_encoding.md R93 (00_scope.md R4 (e)): each expands to a sequence of commands of
R87, chosen from the responses so far. None is a hardware operation: no step of the machine uses this file. -/

namespace Sys2Proof.Machine

open Sys2Proof.Config

/-- The pseudo-instructions of R93, with their operands. -/
inductive Pseudo where
  | writearray (vs : List Byte)              -- (a)
  | writestring (text : List Byte)           -- (b): the character codes of the text, no terminator
  | putbWait (b : BufSel) (v : Byte)         -- (c)
  | pdWritebWait (v : Byte)                  -- (c)
  | pktTake (b : BufSel) (ks : List Nat)     -- (d): which bytes of the payload are read, the first being 0
  | literal (b : BufSel) (vs : List Byte)    -- (e)
  | flush (b : BufSel)                       -- (f)
deriving DecidableEq, Repr

/-- The next act of an expansion: a command or a task poll; `none`: the expansion has ended. -/
abbrev Pseudo.Act := Option Instr

/-- (a): `PD_WRITEB v0; PD_WRITEB v1; …`, stopping after the first response whose `ST ≠ OK` (R93). -/
def nextWrite : List Byte → List Response → Option Instr
  | [], _ => none
  | v :: _, [] => some (.pdWriteb v)
  | _ :: vs, r :: rs => if r.st = .ok then nextWrite vs rs else none

/-- (c): repeat the operation until it answers `OK` or a status of `stops`; between attempts one `EV_TASK` poll, where the
engine has that event. `rs` holds the responses so far, the last first, `none` for a poll (R93). -/
def nextWait (i : Instr) (stops : List Status) (polls : Bool) (rs : List (Option Response)) : Option Instr :=
  match rs with
  | some r :: _ => if r.st = .ok ∨ r.st ∈ stops then none else some (if polls then .evTask else i)
  | _ => some i

/-- (d), after the answers `h` of `PKT_HAS` and `g` of `PKT_GETC`: `DRD` of the payload bytes asked for, `A ≤ off < A + B`,
then `REMOVE` of the whole packet (R93). -/
def takeCommands (b : BufSel) (ks : List Nat) (h g : Response) : List Instr :=
  ((ks.filter fun k => decide (k < g.b.toNat)).map fun k => Instr.drd b (half (g.a.toNat + k))) ++ [.remove b h.a]

/-- (d): `PKT_HAS`; if `A > 0` then `PKT_GETC`, then the commands of `takeCommands` (R93). A prefix of length 0, for which
`PKT_HAS` answers `ZEROLEN` with `A = P`, is so removed, no byte being read (42_framing.md R165, R168). -/
def nextTake (b : BufSel) (ks : List Nat) (rs : List Response) : Option Instr :=
  match rs with
  | [] => some (.pktHas b)
  | [h] => if 0 < h.a.toNat then some (.pktGetc b) else none
  | h :: g :: rest => (takeCommands b ks h g)[rest.length]?

/-- (e): the opening quote, the literal bytes, the closing quote (R93). -/
def literalCommands (b : BufSel) (vs : List Byte) : List Instr := .encQuote b :: vs.map (.encLit b) ++ [.encQuote b]

/-- (f): `COUNT`, then `REMOVE A` (R93). -/
def nextFlush (b : BufSel) : List Response → Option Instr
  | [] => some (.count b)
  | [c] => some (.remove b c.a)
  | _ => none

/-- The next act of a pseudo-instruction on an engine of the kind `kind`, after the responses `rs`, oldest first; a poll leaves
`none` among them (R91, R93). -/
def Pseudo.next (kind : EngineKind) (p : Pseudo) (rs : List (Option Response)) : Pseudo.Act :=
  match p with
  | .writearray vs => nextWrite vs (rs.filterMap id)
  | .writestring text => nextWrite text (rs.filterMap id)
  | .putbWait b v => nextWait (.putb b v) [] (kind == .portEngine) rs.reverse
  | .pdWritebWait v => nextWait (.pdWriteb v) [.porterr] (kind == .portEngine) rs.reverse
  | .pktTake b ks => nextTake b ks (rs.filterMap id)
  | .literal b vs => (literalCommands b vs)[rs.length]?
  | .flush b => nextFlush b (rs.filterMap id)

/-- The result of `WRITEARRAY` and `WRITESTRING`: the number of `OK` responses (R93). -/
def writeCount (rs : List Response) : Nat := (rs.filter fun r => decide (r.st = .ok)).length

end Sys2Proof.Machine
end

