-- ==== Sys2Proof/Tests/Slice0.lean ====
section
/-! SUPPORT. The model's own tests. The words are written out from the field table of 30_encoding.md R80 and the rows of R87;
the responses and states are those of spec/95_test_vectors.md (the vector is named), or computed by hand from the rule named.
Then, for every statement with hypotheses, states that meet them, at the boundaries of each clause. -/

namespace Sys2Proof.Tests

set_option Elab.async false

open Sys2Proof Sys2Proof.Machine Sys2Proof.Config

/-! ## Helpers -/

/-- A Stream buffer with these offsets whose first offsets hold the bytes `bs`. -/
def ring (cap put get : Half) (bs : List Byte) : Buffer :=
  { Buffer.reset with cap := cap, put := put, get := get, store := bs.zipIdx.map fun x => (x.2, x.1) }

/-- The same, of another type. -/
def packets (typ : BufType) (cap put get : Half) (bs : List Byte) : Buffer := { ring cap put get bs with typ := typ }

/-- The same, in a format. -/
def coded (fmt : Format) (cap put get : Half) (bs : List Byte) : Buffer := { ring cap put get bs with fmt := fmt }

/-- A BufferEngine whose next step is the producer's. -/
def onP (q : Buffer) : State := { State.resetWith (.default .bufferEngine) with tx := q, actor := .p }

/-- A BufferEngine whose next step is the consumer's. -/
def onG (q : Buffer) : State := { State.resetWith (.default .bufferEngine) with tx := q, actor := .g }

/-- A PortEngine whose next step is the task agent's. -/
def onH (q r : Buffer) : State := { State.resetWith (.default .portEngine) with tx := q, rx := r, actor := .h }

/-- A buffer with an open transaction. -/
def shadowed (cur : Half) (q : Buffer) : Buffer := { q with cur := cur, shv := true }

/-- The state after a result, if there is one. -/
def stateOf : Result → Option State
  | .next t => some t
  | .fault _ => none
  | .refused _ => none

/-- A number read off the state after an operation. -/
def look {α : Type} (i : Instr) (s : State) (f : State → α) : Option α := (stateOf (exec i s)).map f

/-- The response to an operation. -/
def said (i : Instr) (s : State) : Option Response := (stateOf (exec i s)).bind State.answer

/-- An `OK` response without a kind. -/
def ok (a b : Half) : Option Response := some ⟨.ok, .none, a, b⟩

/-- A refusal. -/
def no (st : Status) : Option Response := some ⟨st, .none, 0, 0⟩

/-- The instruction in a command word. -/
def reads (w : Word) (beats : List Byte) : Option Instr := (decode (.cmd w beats)).toOption

/-! ## Well-formedness -/

theorem test_wf_refuses_long_payload (b : BufSel) (bs : List Byte) (h : bs.length = 65536) : (Instr.pktPut b bs).wf = false := by
  simp [Instr.wf, h]

theorem test_wf_accepts_longest_payload (b : BufSel) (bs : List Byte) (h : bs.length = 65535) : (Instr.pktPut b bs).wf = true := by
  simp [Instr.wf, h]

/-! ## Decoding: words written out from R80 and R87 -/

theorem test_decode_init : reads 0x0192FFFF#32 [] = some (.init .rx 65535 2 4) := by decide
theorem test_decode_isempty : reads 0x02800000#32 [] = some (.isempty .rx) := by decide
theorem test_decode_isfull : reads 0x03000000#32 [] = some (.isfull .tx) := by decide
theorem test_decode_count : reads 0x04800000#32 [] = some (.count .rx) := by decide
theorem test_decode_free : reads 0x05000000#32 [] = some (.free .tx) := by decide
theorem test_decode_putb : reads 0x060000A1#32 [] = some (.putb .tx 0xA1) := by decide
theorem test_decode_putbu : reads 0x078000FF#32 [] = some (.putbu .rx 0xFF) := by decide
theorem test_decode_getb : reads 0x08800000#32 [] = some (.getb .rx) := by decide
theorem test_decode_peekb : reads 0x09000000#32 [] = some (.peekb .tx) := by decide
theorem test_decode_peekat : reads 0x0A801234#32 [] = some (.peekat .rx 0x1234) := by decide
theorem test_decode_remove : reads 0x0B00FFFF#32 [] = some (.remove .tx 0xFFFF) := by decide
theorem test_decode_rspan : reads 0x0C800000#32 [] = some (.rspan .rx) := by decide
theorem test_decode_wspan : reads 0x0D000000#32 [] = some (.wspan .tx) := by decide
theorem test_decode_geterr : reads 0x0E800000#32 [] = some (.geterr .rx) := by decide
theorem test_decode_clrerr : reads 0x0F000000#32 [] = some (.clrerr .tx) := by decide
theorem test_decode_drd : reads 0x10008001#32 [] = some (.drd .tx 0x8001) := by decide
theorem test_decode_shBegin : reads 0x18000000#32 [] = some (.shBegin .tx) := by decide
theorem test_decode_shWrite : reads 0x190000AA#32 [] = some (.shWrite .tx 0xAA) := by decide
theorem test_decode_shCommit : reads 0x1A800000#32 [] = some (.shCommit .rx) := by decide
theorem test_decode_pktPut : reads 0x20000002#32 [0xDE, 0xAD] = some (.pktPut .tx [0xDE, 0xAD]) := by decide
theorem test_decode_pktHas : reads 0x21800000#32 [] = some (.pktHas .rx) := by decide
theorem test_decode_pktGetc : reads 0x22000000#32 [] = some (.pktGetc .tx) := by decide
theorem test_decode_encData : reads 0x3000005E#32 [] = some (.encData .tx 0x5E) := by decide
theorem test_decode_encCtrl : reads 0x31000073#32 [] = some (.encCtrl .tx 0x73) := by decide
theorem test_decode_encQuote : reads 0x32000000#32 [] = some (.encQuote .tx) := by decide
theorem test_decode_encLit : reads 0x33000027#32 [] = some (.encLit .tx 0x27) := by decide
theorem test_decode_decPeek : reads 0x38000000#32 [] = some (.decPeek .tx) := by decide
theorem test_decode_decGet : reads 0x39800000#32 [] = some (.decGet .rx) := by decide
theorem test_decode_decPeekl : reads 0x3A000000#32 [] = some (.decPeekl .tx) := by decide
theorem test_decode_decGetl : reads 0x3B800000#32 [] = some (.decGetl .rx) := by decide
theorem test_decode_pdWriteb : reads 0x4000005E#32 [] = some (.pdWriteb 0x5E) := by decide
theorem test_decode_pdIsbusy : reads 0x41000000#32 [] = some .pdIsbusy := by decide
theorem test_decode_pdStatus : reads 0x42000000#32 [] = some .pdStatus := by decide
theorem test_decode_pdClrerr : reads 0x43000000#32 [] = some .pdClrerr := by decide
theorem test_decode_evRxirq : decodeTableWord 8 1 = some .evRxirq := by decide
theorem test_decode_evTxirq : decodeTableWord 8 2 = some .evTxirq := by decide
theorem test_decode_evTask : decodeTableWord 8 4 = some .evTask := by decide

/-- Illegal words of vector RS6 and R89 (a), (b). -/
theorem test_decode_illegal : [0x00000000#32, 0x11000000#32, 0x06000101#32, 0x02000001#32, 0x06010001#32, 0x01200008#32,
    0x41800000#32, 0x40000100#32, 0x0A010000#32, 0xFF000000#32].all (fun w => reads w [] == none) = true := by decide +kernel

/-! ## One step of each operation -/

/-- RS4: `0x01120400`, and a reserved type, with `STORE_SIZE = 1024`, `MIN_CAP = 2`. -/
theorem test_init : look (.init .tx 1024 2 4) (onP .reset) (fun t => (t.tx.cap, t.tx.typ, t.tx.fmt, t.answer)) =
    some (1024, .largePacket, .asciiEscaped, ok 0 0) := by decide
theorem test_init_range : said (.init .tx 16 3 0) (onP .reset) = no .range ∧ said (.init .tx 16 0 5) (onP .reset) = no .range ∧
    said (.init .tx 0 0 0) (onP .reset) = no .range := by decide

/-- The row `put = 2`, `get = 3` of vector S2. -/
theorem test_isempty : said (.isempty .tx) (onP (ring 4 2 3 [])) = ok 0 0 := by decide
theorem test_isfull : said (.isfull .tx) (onP (ring 4 2 3 [])) = ok 1 0 := by decide
theorem test_count : said (.count .tx) (onG (ring 4 2 3 [])) = ok 3 0 := by decide
theorem test_free : said (.free .tx) (onP (ring 4 2 3 [])) = ok 0 0 := by decide
theorem test_rspan : said (.rspan .tx) (onG (ring 4 2 3 [])) = ok 3 1 := by decide
/-- P1: two bytes to the physical end; V-RS of S2 with `get = 0`. -/
theorem test_wspan : said (.wspan .tx) (onP (ring 8 6 4 [])) = ok 6 2 ∧ said (.wspan .tx) (onP (ring 4 2 0 [])) = ok 2 1 := by decide

/-- S1, the fifth put: `put` wraps. -/
theorem test_putb : look (.putb .tx 0xA5) (onP (ring 5 4 1 [0xA1, 0xA2, 0xA3, 0xA4]))
    (fun t => (t.tx.put, t.tx.get, Memory.read t.tx.store 4, t.answer)) = some (0, 1, some 0xA5, ok 1 0) := by decide
/-- S6, the eighth put. -/
theorem test_putb_full : look (.putb .tx 8) (onP (ring 8 7 0 [1, 2, 3, 4, 5, 6, 7])) (fun t => (t.tx.put, t.tx.err, t.answer)) =
    some (7, true, no .nospace) := by decide
/-- P1: `PUTBU 0x68` wraps. RS5: the fault latch. -/
theorem test_putbu : look (.putbu .tx 0x68) (onP (ring 8 7 4 [])) (fun t => (t.tx.put, t.answer)) = some (0, ok 1 0) := by decide
theorem test_putbu_full : look (.putbu .tx 8) (onP (ring 8 7 0 [1])) (fun t => (t.fault, t.tx, t.answer)) =
    some (true, ring 8 7 0 [1], no .fault) := by decide
/-- S1: `GETB` of the last offset. -/
theorem test_getb : look (.getb .tx) (onG (ring 5 2 4 [0xA6, 0xA7, 0xA3, 0xA4, 0xA5])) (fun t => (t.tx.get, t.answer)) =
    some (0, ok 0xA5 0) := by decide
theorem test_getb_empty : said (.getb .tx) (onG (ring 5 2 2 [])) = no .nodata := by decide
/-- P1: the first byte after the wrap. -/
theorem test_peekat : said (.peekat .tx 4) (onG (ring 8 3 4 [0x69, 0x6A, 0x6B, 0x64, 0x65, 0x66, 0x67, 0x68])) = ok 0x69 0 := by decide
theorem test_peekb : look (.peekb .tx) (onG (ring 8 3 1 [0x69, 0x6A, 0x6B])) (fun t => (t.tx.get, t.answer)) =
    some (1, ok 0x6A 0) := by decide
/-- P1: `get` wraps. -/
theorem test_remove : look (.remove .tx 4) (onG (ring 8 3 4 [])) (fun t => (t.tx.get, t.answer)) = some (0, ok 4 0) := by decide
theorem test_remove_too_many : said (.remove .tx 8) (onG (ring 8 3 4 [])) = no .nodata := by decide
theorem test_geterr : said (.geterr .tx) (onP { ring 8 7 1 [] with err := true }) = ok 1 0 := by decide
theorem test_clrerr : look (.clrerr .tx) (onP { ring 8 7 1 [] with err := true }) (fun t => (t.tx, t.answer)) =
    some (ring 8 7 1 [], ok 0 0) := by decide
/-- S7: offset 1; R128: the capacity itself is out of range. -/
theorem test_drd : said (.drd .tx 1) (onG (ring 4 0 0 [0x03, 0x11])) = ok 0x11 0 ∧
    said (.drd .tx 4) (onG (ring 4 0 0 [])) = no .range := by decide

/-- V-SH2. -/
theorem test_shBegin : look (.shBegin .tx) (onP (ring 4 2 2 [])) (fun t => (t.tx.cur, t.tx.shv, t.answer)) = some (2, true, ok 2 0) := by
  decide
theorem test_shWrite : look (.shWrite .tx 2) (onP (shadowed 3 (ring 4 2 2 [])))
    (fun t => (t.tx.put, t.tx.cur, Memory.read t.tx.store 3, t.answer)) = some (2, 0, some 2, ok 1 0) := by decide
theorem test_shWrite_full : look (.shWrite .tx 4) (onP (shadowed 1 (ring 4 2 2 []))) (fun t => (t.tx.cur, t.tx.err, t.answer)) =
    some (1, true, no .nospace) := by decide
theorem test_shCommit : look (.shCommit .tx) (onP (shadowed 1 (ring 4 2 2 []))) (fun t => (t.tx.put, t.tx.shv, t.answer)) =
    some (1, false, ok 1 3) := by decide
theorem test_shCommit_none : said (.shCommit .tx) (onP (ring 4 2 2 [])) = no .notxn := by decide

/-- S7: a filler, the prefix, the payload; FR3: `get = 0` forbids the wrap. -/
theorem test_pktPut : look (.pktPut .tx [0x11, 0x22, 0x33]) (onP (packets .packet 16 14 14 [])) (fun t => (t.laneP.todo, t.laneP.reply)) =
    some ([.fill .tx, .uput .tx 3, .uput .tx 0x11, .uput .tx 0x22, .uput .tx 0x33], ok 4 1) := by decide
theorem test_pktPut_no_wrap : look (.pktPut .tx [1, 2, 3]) (onP (packets .packet 16 12 0 [])) (fun t => (t.tx.put, t.tx.err, t.answer)) =
    some (12, true, no .nospace) := by decide
/-- S7: the filler is removed first; FR1. -/
theorem test_pktHas_filler : look (.pktHas .tx)
    (onG { packets .packet 16 4 14 [] with store := [(0, 3), (1, 0x11), (2, 0x22), (3, 0x33), (14, 0xFF)] })
    (fun t => (t.tx.get, t.laneG.todo, t.answer)) = some (0, [.pktHas .tx], none) := by decide
theorem test_pktHas : said (.pktHas .tx) (onG (packets .packet 16 5 0 [2, 0xDE, 0xAD, 1, 0xBE])) = ok 3 0 ∧
    said (.pktHas .tx) (onG (packets .largePacket 16 2 0 [0, 0])) = some ⟨.zerolen, .none, 2, 0⟩ := by decide
/-- FR1 and FR9. -/
theorem test_pktGetc : said (.pktGetc .tx) (onG (packets .packet 16 5 3 [2, 0xDE, 0xAD, 1, 0xBE])) = ok 4 1 := by decide
theorem test_pktGetc_malformed : said (.pktGetc .tx) (onG (packets .packet 16 2 0 [0xFF, 1])) = no .malformed := by decide

/-- CD1. -/
theorem test_encData : look (.encData .tx 0x5E) (onP (coded .ascii 16 0 0 [])) (fun t => (t.laneP.todo, t.laneP.reply)) =
    some ([.uput .tx 0x35, .uput .tx 0x45], ok 2 0) := by decide
/-- CD6: all or nothing, then one byte still fits. -/
theorem test_encData_all_or_nothing :
    look (.encData .tx 0x5E) (onP (coded .binaryEscaped 4 2 0 [1, 2])) (fun t => (t.tx.put, t.tx.err, t.answer)) =
      some (2, true, no .nospace) ∧
    look (.encData .tx 0x41) (onP (coded .binaryEscaped 4 2 0 [1, 2])) (fun t => (t.tx.put, t.answer)) = some (3, ok 1 0) := by decide
theorem test_encCtrl : look (.encCtrl .tx 0x73) (onP (coded .binaryEscaped 16 0 0 [])) (fun t => t.laneP.todo) =
    some [.uput .tx 0x5E, .uput .tx 0x73] := by decide
theorem test_encCtrl_refused : said (.encCtrl .tx 0x5E) (onP (coded .asciiEscaped 16 0 0 [])) = no .range ∧
    said (.encCtrl .tx 0x5E) (onP (coded .ascii 16 0 0 [])) = no .format := by decide
theorem test_encQuote : look (.encQuote .tx) (onP (coded .ascii 16 0 0 [])) (fun t => (Memory.read t.tx.store 0, t.answer)) =
    some (some 0x27, ok 1 0) := by decide
theorem test_encLit : look (.encLit .tx 0x27) (onP (coded .ascii 16 0 0 [])) (fun t => (t.laneP.todo, t.laneP.reply)) =
    some ([.uput .tx 0x27, .uput .tx 0x27], ok 2 0) := by decide
theorem test_encLit_format : said (.encLit .tx 0x27) (onP (coded .binary 16 0 0 [])) = no .format := by decide

/-- CD7: the pair lies across the physical end; CD5: lower-case `a` is no digit. -/
theorem test_decPeek : look (.decPeek .tx) (onG (coded .binaryEscaped 8 1 7 [0x73, 0, 0, 0, 0, 0, 0, 0x5E])) (fun t => (t.tx.get, t.answer)) =
    some (7, some ⟨.ok, .ctrl, 0x73, 2⟩) := by decide
theorem test_decPeek_malformed : said (.decPeek .tx) (onG (coded .ascii 8 2 0 [0x34, 0x61])) = no .malformed := by decide
theorem test_decGet : look (.decGet .tx) (onG (coded .ascii 8 1 7 [0x33, 0, 0, 0, 0, 0, 0, 0x43])) (fun t => (t.tx.get, t.answer)) =
    some (1, some ⟨.ok, .data, 0xC3, 2⟩) := by decide
theorem test_decGet_half_symbol : look (.decGet .tx) (onG (coded .binaryEscaped 8 1 0 [0x5E])) (fun t => (t.tx.get, t.answer)) =
    some (0, no .nodata) := by decide
theorem test_decPeekl : said (.decPeekl .tx) (onG (coded .ascii 8 2 0 [0x27, 0x27])) = some ⟨.ok, .data, 0x27, 2⟩ ∧
    said (.decPeekl .tx) (onG (coded .ascii 8 1 0 [0x27])) = no .nodata := by decide
theorem test_decGetl : look (.decGetl .tx) (onG (coded .ascii 8 2 0 [0x27, 0x41])) (fun t => (t.tx.get, t.answer)) =
    some (1, some ⟨.ok, .qclose, 0x27, 1⟩) := by decide
theorem test_decGetl_format : said (.decGetl .tx) (onG (coded .binary 8 1 0 [0x27])) = no .format := by decide

/-- PD2: the bytes, then the kick-start; PD8: a transaction is open. -/
theorem test_pdWriteb : look (.pdWriteb 0x5E) (onH (coded .binaryEscaped 16 0 0 []) .reset) (fun t => (t.laneH.todo, t.laneH.reply)) =
    some ([.uput .tx 0x5E, .uput .tx 0x5E, .kick], ok 1 2) := by decide
theorem test_pdWriteb_order : said (.pdWriteb 1) { onH (shadowed 0 (ring 16 0 0 [])) .reset with toErr := true } = no .porterr ∧
    said (.pdWriteb 1) (onH (shadowed 0 (ring 16 0 0 [])) .reset) = no .busy := by decide
theorem test_pdIsbusy : said .pdIsbusy { onH (ring 16 2 2 []) .reset with pstate := .transmitting } = ok 1 0 := by decide
/-- PD7: `A = 9`. -/
theorem test_pdStatus : said .pdStatus { onH { ring 4 2 0 [] with err := true } .reset with pstate := .transmitting } = ok 9 0 := by decide
theorem test_pdClrerr : look .pdClrerr { onH { ring 4 2 0 [] with err := true } { ring 4 2 0 [] with err := true } with toErr := true }
    (fun t => (t.tx.err, t.rx.err, t.toErr, t.answer)) = some (false, true, false, ok 0 0) := by decide

/-- PD8: the kick-start; PD3: the timeout at its tick, and nothing one tick before. -/
theorem test_evTask_kick : look .evTask { onH (ring 16 2 0 [0x5E, 0x73]) .reset with now := 7 }
    (fun t => (t.pstate, t.deadline, t.tx.get, t.per.txreg)) = some (.transmitting, 107, 1, some 0x5E) := by decide
theorem test_evTask_timeout :
    look .evTask { onH (ring 16 3 1 []) .reset with pstate := .transmitting, deadline := 2100, now := 2100 }
      (fun t => (t.pstate, t.toErr, t.tx.get)) = some (.idle, true, 3) ∧
    look .evTask { onH (ring 16 3 1 []) .reset with pstate := .transmitting, deadline := 2100, now := 2099 }
      (fun t => (t.pstate, t.toErr, t.tx.get)) = some (.transmitting, false, 1) := by decide
/-- PD1. -/
theorem test_evTxirq :
    look .evTxirq { onH (ring 16 5 1 [1, 2]) .reset with pstate := .transmitting, deadline := 1100, now := 1010 }
      (fun t => (t.pstate, t.deadline, t.tx.get, t.per.txreg)) = some (.transmitting, 1110, 2, some 2) := by decide
theorem test_evTxirq_empty : look .evTxirq { onH (ring 16 5 5 []) .reset with pstate := .transmitting } (fun t => t.pstate) =
    some .idle := by decide
/-- 70_reset_and_hazards.md R287 (b): raised while the transmit register is occupied, with `TX` empty and with a byte held. -/
theorem test_evTxirq_busy : [ring 16 5 5 [], ring 16 5 1 [1, 2]].all (fun q =>
    let s := { onH q .reset with pstate := .transmitting, deadline := 110, now := 20, per := { Peripheral.reset with txreg := some 1 } }
    stateOf (exec .evTxirq s) == some s) = true := by decide
/-- PD5: the flags are cleared, and the drain begins. -/
theorem test_evRxirq : look .evRxirq { onH .reset (ring 4 0 0 []) with per := { Peripheral.reset with rxq := [0x41], overrun := true } }
    (fun t => (t.per.overrun, t.laneI.todo)) = some (false, [.drain]) := by decide

/-- RS6: the priorities of the entry checks. -/
theorem test_priorities : said (.putb .tx 1) (onG .reset) = no .wrongctx ∧ said (.count .tx) (onP .reset) = no .uninit ∧
    said .pdIsbusy (onP (ring 8 0 0 [])) = no .illegal ∧ said (.putb .rx 1) (onH .reset (ring 8 0 0 [])) = no .wrongctx ∧
    said (.count .tx) { onP .reset with fault := true } = no .fault := by decide

/-- The three response words of the notation paragraph of spec/95_test_vectors.md, and the last code of R241 and of R84. -/
theorem test_response_word : (Response.mk .ok .none 5 2).word = 0x0000050002#40 ∧
    (Response.mk .nospace .none 0 0).word = 0x1000000000#40 ∧ (Response.mk .ok .ctrl 0x73 2).word = 0x0200730002#40 ∧
    (Response.mk .notxn .qclose 0 0).word = 0xD400000000#40 := by decide

/-- R93 (d) on the packet of P2, and on the zero length of FR9: `REMOVE P` without a read. -/
theorem test_pktTake : let next := fun rs : List Response => Pseudo.next .bufferEngine (.pktTake .tx [0, 4, 5]) (rs.map some)
    let has := Response.mk .ok .none 6 0
    let get := Response.mk .ok .none 1 5
    let byte := Response.mk .ok .none 0xDE 0
    next [] = some (.pktHas .tx) ∧ next [has] = some (.pktGetc .tx) ∧ next [has, get] = some (.drd .tx 1) ∧
    next [has, get, byte] = some (.drd .tx 5) ∧ next [has, get, byte, byte] = some (.remove .tx 6) ∧
    next [has, get, byte, byte, has] = none ∧ next [⟨.ok, .none, 0, 0⟩] = none := by decide
theorem test_pktTake_zero_length : let next := fun rs : List Response => Pseudo.next .bufferEngine (.pktTake .tx [0]) (rs.map some)
    let zero := Response.mk .zerolen .none 1 0
    next [zero] = some (.pktGetc .tx) ∧ next [zero, zero] = some (.remove .tx 1) ∧ next [zero, zero, ⟨.ok, .none, 1, 0⟩] = none := by
  decide

/-! ## Single steps of the machine -/

/-- A fresh PortEngine on which a word is placed runs it. -/
theorem test_step_first_instruction :
    (stateOf (step (State.reset.withFetchWord 32 0x01090010))).map (fun t => (t.tx.cap, t.tx.typ, t.tx.fmt, t.answer)) =
      some (16, .packet, .binaryEscaped, ok 0 0) := by decide
/-- RS6: the all-zero word. -/
theorem test_step_illegal : (stateOf (step (State.reset.withFetchWord 32 0))).bind State.answer = no .illegal := by decide
/-- 20_memory.md R60: a byte, a filler, and the last step of `PD_WRITEB` (PD2). -/
theorem test_micro_uput : (stateOf (runMicro .p { onP (ring 4 3 1 []) with laneP := ⟨[.uput .tx 7], ok 2 0, none⟩ })).map
    (fun t => (t.tx.put, Memory.read t.tx.store 3, t.laneP)) = some (0, some 7, ⟨[], none, ok 2 0⟩) := by decide
theorem test_micro_fill : (stateOf (runMicro .p { onP (packets .packet 8 6 6 []) with
      laneP := ⟨[.fill .tx, .uput .tx 2], ok 3 1, none⟩ })).map
    (fun t => (t.tx.put, Memory.read t.tx.store 6, t.laneP)) = some (0, some 0xFF, ⟨[.uput .tx 2], ok 3 1, none⟩) := by decide
theorem test_micro_kick : (stateOf (runMicro .h { onH (ring 16 2 0 [0x5E, 0x5E]) .reset with
      laneH := ⟨[.kick], ok 1 2, none⟩, now := 500 })).map
    (fun t => (t.pstate, t.deadline, t.tx.get, t.per.txreg, t.answer)) =
      some (.transmitting, 600, 1, some 0x5E, ok 1 2) := by decide
/-- PD5: a byte for which there is no room is dropped. -/
theorem test_micro_drain : (stateOf (runMicro .irq { onH .reset (ring 4 0 1 []) with
      laneI := ⟨[.drain], none, none⟩, per := { Peripheral.reset with rxq := [0x45, 0x46] } })).map
    (fun t => (t.rx.put, t.rx.err, t.per.rxq)) = some (0, true, [0x46]) := by decide

/-- R216: the peripheral has no byte, so the drain is over and the host's command is taken; with a byte, the drain goes first. -/
theorem test_drain_ends :
    let s := { onH (ring 4 2 0 [1, 2]) (ring 4 0 0 []) with laneI := ⟨[.drain], none, none⟩, inputs := [.cmd .h 0x04000000#32 []] }
    (stateOf (step s)).map (fun t => (t.answer, t.laneI.todo, t.inputs.length)) = some (ok 2 0, [], 0) ∧
    (stateOf (step { s with per := { Peripheral.reset with rxq := [0x41] } })).map (fun t => (t.rx.put, t.laneI.todo, t.inputs.length)) =
      some (1, [.drain], 1) := by decide

/-! ## The hypotheses of the statements can be met

Each theorem is about the statement of `Obligations` in its name. Where a statement has several clauses, or branches inside one
conclusion, there is a state for each of them, at a boundary of its range. -/

/-- A packet with a filler half written: 8 bytes, empty at 6. -/
def wrapping : State := { onP (packets .packet 8 6 6 []) with laneP := ⟨[.fill .tx, .uput .tx 2, .uput .tx 1, .uput .tx 1], ok 3 1, none⟩ }

/-- A stuck `PD_WRITEB` and a receive drain together, one byte of room in each buffer. -/
def draining : State :=
  { onH (ring 3 1 0 [1]) (ring 3 1 0 [1]) with
    laneH := ⟨[.uput .tx 7, .kick], ok 1 1, none⟩, laneI := ⟨[.drain], none, none⟩
    per := { Peripheral.reset with rxq := [0x41] }, pstate := .transmitting }

/-- The shadow bytes fill the free space. -/
def transacting : State := onP (shadowed 1 (ring 4 2 2 [3, 0, 1, 2]))

theorem witness_DecodeOfEncode : (Instr.init .rx 0xFFFF 3 7).wf = true ∧ (Instr.pktPut .tx []).wf = true ∧
    ∀ bs : List Byte, bs.length = 65535 → (Instr.pktPut .tx bs).wf = true :=
  ⟨by decide, by decide, fun bs h => test_wf_accepts_longest_payload .tx bs h⟩
theorem witness_EncodeOfDecode : decode (.cmd 0x01FFFFFF#32 []) = .error (.reservedBits 1) ∧
    decode (.cmd 0x019FFFFF#32 []) = .ok (.init .rx 0xFFFF 3 7) ∧ decode (.ev 0b001#3) = .ok .evRxirq := by
  decide +kernel
theorem witness_OpcodeMap : sideOf (.pktPut .tx []) ≠ .event ∧
    0x20800001#32 &&& (opcodeRow (.pktPut .tx [])).2 = (opcodeRow (.pktPut .tx [])).1 ∧ [0x05#8].length = beatCount 0x20800001#32 ∧
    decode (.cmd 0x20800001#32 [0x05]) = .ok (.pktPut .rx [0x05]) := by
  decide +kernel
theorem witness_ResetStep : draining.par.ok = true ∧ ({ draining with inputs := [.reset] }).inputs = .reset :: [] := by decide +kernel
/-- The smallest and the largest values of R5. -/
theorem witness_ResetInvariant : (Params.default .portEngine).ok = true ∧
    (Params.mk .bufferEngine ⟨1, 0x5E, 0x27⟩ ⟨1, 0x2F, 0x3A⟩ 1 1).ok = true ∧
    (Params.mk .portEngine ⟨65535, 0x40, 0x47⟩ ⟨65535, 0xFF, 0x00⟩ 65535 2147483647).ok = true := by
  decide +kernel
theorem wrapping_inv : wrapping.Inv := by
  refine ⟨by decide +kernel, by decide +kernel, by decide +kernel, ⟨rfl, rfl, ⟨rfl, ⟨by decide, by decide⟩, ?_⟩, rfl⟩, ?_, ?_⟩ <;> decide +kernel
theorem draining_inv : draining.Inv := by
  refine ⟨by decide +kernel, by decide +kernel, by decide +kernel, ⟨rfl, rfl, .inr rfl, rfl, .inl ⟨rfl, (by show putsIn _ ≤ Buffer.free _; decide), ?_⟩⟩, ?_, ?_⟩ <;> decide +kernel
theorem transacting_inv : transacting.Inv := by
  refine ⟨by decide +kernel, by decide +kernel, by decide +kernel, ⟨rfl, rfl, ⟨rfl, (by show putsIn _ ≤ Buffer.free _; decide), ?_⟩, rfl⟩, ?_, ?_⟩ <;> decide +kernel
theorem witness_StepKeepsInvariant : wrapping.Inv ∧ draining.Inv ∧ transacting.Inv ∧ (stateOf (step wrapping)).isSome = true ∧
    (stateOf (step draining)).isSome = true ∧ (stateOf (step transacting)).isSome = true :=
  ⟨wrapping_inv, draining_inv, transacting_inv, by decide, by decide, by decide⟩
theorem witness_StepProgress : wrapping.Inv ∧ ({ wrapping with inputs := [.cmd .p 0x20000001#32 [5], .cmd .g 0 [], .go .g] }).inputsFit :=
  ⟨wrapping_inv, by decide +kernel⟩
/-- `draining` holds offset 0 of `TX`, and its step stores a byte at offset 1 of `RX`. -/
theorem witness_HeldBytesKept : draining.Inv ∧ draining.inputs.head? ≠ some .reset ∧ (stateOf (step draining)).isSome = true ∧
    (draining.buf .tx).holds 0 := ⟨draining_inv, by decide, by decide, 0, by decide, by decide⟩

/-- A stuck command and a drain that has found no byte any more. -/
def drained : State := { draining with per := Peripheral.reset }

theorem witness_StepRunsDecoded_command : (Params.default .bufferEngine).ok = true ∧ hasAgent .bufferEngine Port.g.agent = true ∧
    (onP .reset).laneI.todo = [] ∧ ((onP .reset).lane Port.g.agent).todo = [] ∧ decode (.cmd 0x08000000#32 []) = .ok (.getb .tx) ∧
    (({ drained with laneH := .idle }).per.hasRx = false ∧ ({ drained with laneH := .idle }).laneI.todo ≠ [] ∧
      (({ drained with laneH := .idle }).lane Port.h.agent).todo = []) := by
  decide +kernel
/-- An interrupt and a poll with nothing pending; an interrupt between two micro-steps of a host command, the drain over. -/
theorem witness_StepRunsDecoded_event : State.reset.par.ok = true ∧ State.reset.par.kind = .portEngine ∧ State.reset.laneI.todo = [] ∧
    State.reset.laneH.todo = [] ∧ decode (.ev 0b010#3) = .ok .evTxirq ∧ decode (.ev 0b100#3) = .ok .evTask ∧
    (drained.par.ok = true ∧ drained.par.kind = .portEngine ∧ drained.per.hasRx = false ∧ drained.laneH.todo ≠ [] ∧
      Instr.evTxirq ≠ .evTask) := by
  decide +kernel
theorem witness_IllegalWords : (Params.default .portEngine).ok = true ∧ hasAgent .portEngine Port.h.agent = true ∧
    [0x05#8].length = beatCount 0x20010001#32 ∧ decode (.cmd 0x20010001#32 [0x05]) = .error (.reservedBits 0x20) ∧
    ([] : List Byte).length = beatCount 0x11000000#32 ∧ decode (.cmd 0x11000000#32 []) = .error (.badOpcode 0x11) ∧
    (drained.per.hasRx = false ∧ (State.reset.lane Port.h.agent).todo = []) := by
  decide +kernel
/-- While the drain has a byte to read: a command, an event, `go` of either agent. -/
theorem witness_Turns_drain : draining.par.ok = true ∧ draining.per.hasRx = true ∧ draining.laneI.todo ≠ [] ∧
    hasAgent draining.par.kind Port.h.agent = true ∧ draining.par.kind = .portEngine ∧ (0b010#3) ≠ 0 ∧
    hasAgent draining.par.kind .irq = true := by
  decide +kernel
/-- Host micro-steps pending and the drain over; a BufferEngine, which has no drain. -/
theorem witness_Turns_pending : drained.par.ok = true ∧ drained.per.hasRx = false ∧ (drained.lane Port.h.agent).todo ≠ [] ∧
    hasAgent drained.par.kind Port.h.agent = true ∧ drained.par.kind = .portEngine ∧ drained.laneH.todo ≠ [] ∧ Agent.h ≠ .irq ∧
    (wrapping.par.ok = true ∧ wrapping.laneI.todo = [] ∧ (wrapping.lane Port.p.agent).todo ≠ [] ∧
      hasAgent wrapping.par.kind Port.p.agent = true) := by
  decide +kernel
/-- Strobes together, with and without host micro-steps pending; no input. -/
theorem witness_Turns_strobes : (∀ v ∈ [(0b011 : BitVec 3), 0b101, 0b110, 0b111], ∀ s ∈ [State.reset, drained],
      s.par.ok = true ∧ s.par.kind = .portEngine ∧ (s.laneI.todo = [] ∨ s.per.hasRx = false) ∧
        ({ s with inputs := [.ev v true] }).inputs = .ev v true :: []) ∧
    (State.reset.inputs = [] ∧ ∀ a, a ≠ .irq → (State.reset.lane a).todo = []) := by
  refine ⟨by decide +kernel, rfl, fun a _ => ?_⟩
  cases a <;> rfl
theorem witness_EnvironmentMoves : draining.par.ok = true ∧
    ({ draining with per := { draining.per with txreg := some 0 }, inputs := [.sent] }).per.txreg = some 0 := by
  decide +kernel
theorem witness_EntryChecks : sideOf (.putb .tx 0) ≠ .event ∧ ({ onP .reset with fault := true }).fault = true ∧
    ((onP .reset).fault = false ∧ (onP .reset).par.kind = .bufferEngine ∧ bufOf (.putb .rx 0) = .rx ∧ sideOf .pdStatus = .host) ∧
    portAccepts .bufferEngine (onG .reset).actor (sideOf (.putb .tx 0)) .tx = false ∧
    ((onP .reset).accepts (sideOf (.putb .tx 0)) .tx ∧ ((onP .reset).buf .tx).cap = 0) := by
  decide +kernel

/-- A refusal for each cause, an accepted `INIT` at both ends of the range, another agent's pending micro-step. -/
theorem witness_InitRule : (onP .reset).accepts .either .tx ∧ 5 ≤ (5#3).toNat ∧
    (({ onP .reset with par := { Params.default .bufferEngine with minCap := 2, tx := ⟨1024, 0x5E, 0x27⟩ } }).accepts .either .tx ∧
      (1 : Half).toNat < 2 ∧ 1024 < (1025 : Half).toNat) ∧
    BufType.ofCode 2 = some .largePacket ∧ Format.ofCode 4 = some .asciiEscaped ∧
    (1 ≤ (1 : Half).toNat ∧ (65535 : Half).toNat ≤ (Params.default .bufferEngine).tx.storeSize) ∧
    (({ wrapping with actor := .g }).accepts .either .tx ∧
      ∃ a, a ≠ ({ wrapping with actor := .g }).actor ∧ ∃ m ∈ (({ wrapping with actor := .g }).lane a).todo, m.target = .tx) ∧
    ∀ a, a ≠ (onP .reset).actor → ∀ m ∈ ((onP .reset).lane a).todo, m.target ≠ .tx := by
  refine ⟨by decide, by decide, by decide, by decide, by decide, by decide +kernel, ⟨by decide, .p, by decide, by decide⟩, ?_⟩
  intro a _ m hm
  cases a <;> simp [State.lane, onP, State.resetWith, Lane.idle] at hm
theorem witness_CountQueries : ∀ q ∈ [ring 1 0 0 [], ring 4 3 3 [], ring 4 2 3 [], ring 65535 65534 0 []],
    (onP q).ready .either .tx ∧ ((onP q).buf .tx).offsetsOk := by
  decide +kernel
theorem witness_ErrorFlagOps : (onG (ring 1 0 0 [])).ready .either .tx ∧
    (onH .reset { ring 4 0 0 [] with err := true }).ready .either .rx := by
  decide +kernel
/-- Open transaction; full; one byte left; capacity 1. -/
def putStates : List State := [transacting, onP (ring 4 2 3 []), onP (ring 4 3 1 []), onP (ring 1 0 0 []), onH (ring 2 0 0 []) .reset]
theorem witness_PutbRule : ∀ s ∈ putStates, s.ready .put .tx ∧ (s.buf .tx).offsetsOk := by decide +kernel
theorem witness_PutbuRule : (∀ s ∈ putStates, s.ready .put .tx ∧ (s.buf .tx).offsetsOk) ∧ (transacting.buf .tx).shv = true ∧
    (((onP (ring 4 3 1 [])).buf .tx).shv = false ∧ (3 + 1) % 4 ≠ 1) ∧ (((onP (ring 4 2 3 [])).buf .tx).shv = false ∧ (2 + 1) % 4 = 3) := by
  decide +kernel
theorem witness_SpanRules : (∀ q ∈ [ring 4 3 0 [], ring 4 3 3 [], ring 4 0 3 [], ring 1 0 0 []],
    (onP q).ready .put .tx ∧ (onG q).ready .get .tx ∧ q.offsetsOk) := by
  decide +kernel
/-- Nothing held; one byte held, at the last offset; full. -/
def getStates : List State := [onG (ring 4 3 3 []), onG (ring 4 0 3 [1, 2, 3, 4]), onG (ring 4 2 3 [1, 2, 3, 4])]
theorem witness_GetbRule : ∀ s ∈ getStates, s.ready .get .tx ∧ (s.buf .tx).offsetsOk := by decide +kernel
theorem witness_PeekRule : (∀ s ∈ getStates, s.ready .get .tx ∧ (s.buf .tx).offsetsOk) ∧
    ((onG (ring 4 2 3 [1, 2, 3, 4])).buf .tx).count = (2 : Half).toNat + 1 := by
  decide +kernel
theorem witness_RemoveRule : ∀ s ∈ getStates, s.ready .get .tx := by decide +kernel
theorem witness_DirectReads : ∀ s ∈ getStates, s.ready .get .tx ∧ (3 : Half).toNat < (s.buf .tx).cap.toNat ∧
    (s.buf .tx).cap.toNat ≤ (4 : Half).toNat := by
  decide +kernel
theorem witness_DirectReads_stored : Memory.read ((onG (ring 4 0 3 [1, 2, 3, 4])).buf .tx).store (3 : Half).toNat = some 4 ∧
    Memory.read ((onG (ring 4 3 3 [])).buf .tx).store (3 : Half).toNat = none := by
  decide +kernel
theorem witness_FullLaw : ∀ q ∈ [ring 1 0 0 [], ring 4 2 3 [], ring 4 3 3 []], q.offsetsOk ∧ q.cap ≠ 0 := by decide +kernel
theorem witness_CapacityOne : (ring 1 0 0 []).offsetsOk ∧ (onP (ring 1 0 0 [])).ready .either .tx ∧ (onP (ring 1 0 0 [])).ready .put .tx ∧
    (onP (ring 1 0 0 [])).ready .get .tx = False ∧ (onG (ring 1 0 0 [])).ready .get .tx ∧ (ring 1 0 0 []).shv = false := by
  refine ⟨by decide, by decide, by decide, ?_, by decide, by decide⟩
  exact eq_false (by decide)
theorem witness_QueueLaws : ((onP (ring 4 3 1 [])).ready .put .tx ∧ (ring 4 3 1 []).shv = false ∧ (ring 4 3 1 []).isFull = false) ∧
    (onG (ring 4 0 3 [1, 2, 3, 4])).ready .get .tx ∧ (ring 4 0 3 [1, 2, 3, 4]).held = some 4 :: [] ∧
    (1 : Half).toNat ≤ (ring 4 0 3 [1, 2, 3, 4]).held.length ∧ (ring 4 2 3 [1, 2, 3, 4]).held[(2 : Half).toNat]? = some (some 2) ∧
    (onG (ring 4 0 3 [])).ready .either .tx ∧ (ring 4 0 3 []).offsetsOk := by
  decide +kernel

theorem witness_ShadowOps : (∀ s ∈ [transacting, onP (ring 4 2 2 []), onP (shadowed 3 (ring 4 2 2 []))],
    s.ready .put .tx ∧ (s.buf .tx).shadowOk) := by
  decide +kernel
theorem witness_TransactionBlocksPuts : (transacting.buf .tx).shv = true ∧ transacting.ready .put .tx ∧
    ((onP (shadowed 0 (packets .packet 4 0 0 []))).ready .put .tx ∧ (shadowed 0 (packets .packet 4 0 0 [])).typ ≠ .stream) ∧
    ((onP (shadowed 0 (coded .asciiEscaped 4 0 0 []))).ready .put .tx ∧ (shadowed 0 (coded .asciiEscaped 4 0 0 [])).shv = true ∧
      (coded .asciiEscaped 4 0 0 []).fmt.escaped = true ∧ (coded .asciiEscaped 4 0 0 []).fmt.hex = true) ∧
    ((onH (shadowed 0 (ring 4 0 0 [])) .reset).ready .host .tx ∧ (onH (shadowed 0 (ring 4 0 0 [])) .reset).portError = false) := by
  decide +kernel
/-- The writes fill the free space. -/
theorem witness_ShadowTransaction : (onP (ring 4 2 3 [])).ready .put .tx ∧ (onP (ring 4 2 2 [])).ready .put .tx ∧
    (ring 4 2 2 []).offsetsOk ∧ [1#8, 2#8, 3#8].length ≤ (ring 4 2 2 []).free ∧ ([] : List Byte).length ≤ (ring 4 2 3 []).free := by
  decide +kernel

theorem witness_FramingNeedsPackets : (ring 4 0 0 []).typ = .stream ∧ (onP (ring 4 0 0 [])).ready .put .tx ∧
    (onG (ring 4 0 0 [])).ready .get .tx := by
  decide +kernel
/-- FR2 (exact fit), FR3 (`get = 0`), FR4 and FR10 (wrap), FR5 (`put < get`), FR7 (one-byte tail). -/
theorem witness_PktPutRule : ∀ q ∈ [packets .packet 16 12 5 [], packets .packet 16 12 0 [], packets .packet 16 14 4 [],
    packets .packet 8 6 6 [], packets .packet 16 2 8 [], packets .largePacket 1024 1023 1023 []],
    (onP q).ready .put .tx ∧ ((onP q).buf .tx).typ ≠ .stream ∧ ((onP q).buf .tx).shv = false := by
  decide +kernel
/-- The state of FR10 (behind a filler), and that of FR2 (an exact fit up to the capacity, no wrap). -/
theorem witness_PacketLaidOut : ∀ q ∈ [packets .packet 8 6 6 [], packets .packet 16 12 5 []],
    (onP q).ready .put .tx ∧ ((onP q).buf .tx).typ ≠ .stream ∧ ((onP q).lane .p).todo = [] := by
  decide +kernel
theorem witness_PacketLaidOut_wrap :
    look (.pktPut .tx [1, 2, 3]) (onP (packets .packet 8 6 6 [])) (fun t => (t.lane t.actor).todo.length) = some 5 ∧
    look (.pktPut .tx [1, 2, 3]) (onP (packets .packet 16 12 5 [])) (fun t => (t.lane t.actor).todo.length) = some 4 := by
  decide +kernel
theorem witness_PacketLaidOut_inv : (onP (packets .packet 8 6 6 [])).Inv ∧ (onP (packets .packet 16 12 5 [])).Inv := by
  constructor <;>
  refine ⟨by decide +kernel, by decide +kernel, by decide +kernel, ⟨rfl, rfl, ⟨rfl, (by show putsIn _ ≤ Buffer.free _; decide), ?_⟩, rfl⟩, ?_, ?_⟩ <;> decide +kernel
theorem witness_PktHasRule : ∀ q ∈ [packets .packet 16 0 0 [], packets .packet 16 1 15 [0xFF], packets .packet 16 2 0 [0xFF, 1],
    packets .packet 16 2 0 [0, 3], packets .packet 16 4 0 [3, 1, 2, 3], packets .packet 16 3 0 [3, 1, 2]],
    (onG q).ready .get .tx ∧ ((onG q).buf .tx).offsetsOk ∧ ((onG q).buf .tx).typ = .packet := by
  decide +kernel
theorem witness_PktHasRule_large : ∀ q ∈ [packets .largePacket 16 1 0 [0], packets .largePacket 16 2 0 [0, 0],
    packets .largePacket 16 3 0 [0, 1, 9], packets .largePacket 16 1 15 [0xFF]],
    (onG q).ready .get .tx ∧ ((onG q).buf .tx).offsetsOk ∧ ((onG q).buf .tx).typ = .largePacket := by
  decide +kernel
/-- A filler; then a packet that ends at the capacity, a zero length, a half packet. -/
theorem witness_PktGetcRule :
    look (.pktHas .tx) (onG { packets .packet 8 3 6 [2, 1, 2] with store := [(0, 2), (1, 1), (2, 2), (6, 0xFF)] }) State.answer = some none ∧
    look (.pktHas .tx) (onG { packets .packet 8 0 5 [] with store := [(5, 2), (6, 1), (7, 2)] }) State.answer = some (ok 3 0) ∧
    look (.pktHas .tx) (onG (packets .packet 8 2 0 [0, 1])) State.answer = some (some ⟨.zerolen, .none, 1, 0⟩) ∧
    look (.pktHas .tx) (onG (packets .packet 8 2 0 [2, 1])) State.answer = some (ok 0 0) := by
  decide +kernel
theorem witness_FillerRoundRepeats :
    let s := { onG (packets .packet 16 1 0 [0xFF]) with laneG := ⟨[.pktHas .tx], none, none⟩, actor := .p }
    let t := { s.setLane .g { s.lane .g with todo := [] } with actor := .g }
    s.fault = false ∧ t.ready .get .tx ∧ (t.buf .tx).offsetsOk ∧ (t.buf .tx).typ ≠ .stream ∧ (s.lane .g).todo = [.pktHas .tx] ∧
      (t.buf .tx).get = 0 ∧ (stateOf (exec (.pktHas .tx) t)).isSome = true ∧ (stateOf (exec (.pktGetc .tx) t)).isSome = true ∧
      ({ s with laneG := ⟨[.pktGetc .tx], none, none⟩ }.lane .g).todo = [.pktGetc .tx] := by
  decide +kernel

/-- A byte that is not the last, the last one, a filler; the last step of `PD_WRITEB` with the peripheral ready and busy. -/
theorem witness_MicroSteps : draining.fault = false ∧ (draining.buf .tx).offsetsOk ∧ (draining.buf .tx).cap ≠ 0 ∧
    (draining.lane .h).todo = .uput .tx 7 :: [.kick] ∧ (wrapping.lane .p).todo = .fill .tx :: [.uput .tx 2, .uput .tx 1, .uput .tx 1] ∧
    (wrapping.buf .tx).offsetsOk ∧ ({ wrapping with laneP := ⟨[.uput .tx 1], ok 3 1, none⟩ }.lane .p).todo = .uput .tx 1 :: [] ∧
    ({ draining with laneH := ⟨[.kick], some ⟨.ok, .none, 1, 1⟩, none⟩, pstate := .idle }).laneH =
      ⟨[.kick], some ⟨.ok, .none, 1, 1⟩, none⟩ := by
  decide +kernel

/-- The formats of CD1 with room, and CD6: one byte of room; full. -/
def encodeStates : List State := [onP (coded .none 16 0 0 []), onP (coded .binary 16 0 0 []), onP (coded .binaryEscaped 4 2 0 []),
  onP (coded .ascii 4 2 0 []), onP (coded .asciiEscaped 4 3 1 []), onP (coded .asciiEscaped 4 3 0 [])]
theorem witness_EncDataRule : ∀ s ∈ encodeStates, s.ready .put .tx ∧ (s.buf .tx).offsetsOk ∧ (s.buf .tx).shv = false := by decide +kernel
theorem witness_EncCtrlRule : ∀ s ∈ transacting :: encodeStates, s.ready .put .tx := by decide +kernel
theorem witness_EncLiteralRules : ∀ s ∈ transacting :: encodeStates, s.ready .put .tx ∧ (s.buf .tx).offsetsOk := by decide +kernel
/-- Two free bytes in AsciiEscaped, for each of the four operations. -/
theorem witness_EncodeAppends : let q := coded .asciiEscaped 4 1 0 [0x30]
    (onP q).ready .put .tx ∧ q.offsetsOk ∧ q.shv = false ∧ ((onP q).lane (onP q).actor).todo = [] ∧ q.free = 2 ∧
    (CodecSymbol.data 0x41).bytes .asciiEscaped 0x5E = [0x34, 0x31] ∧ (CodecSymbol.control 0x73).representable .asciiEscaped 0x5E = true ∧
    q.fmt.hex = true ∧ litBytes 0x27 0x27 = [0x27, 0x27] := by
  decide +kernel
theorem witness_DecodeFunction : 1 ≤ 1 ∧ hexVal 0x39 = some 9 ∧ hexVal 0x41 = some 10 ∧ hexVal 0x46 = some 15 ∧
    [0x2F, 0x3A, 0x40, 0x47, 0x61].all (fun x => hexVal x == none) = true := by
  decide +kernel
/-- Nothing held; a symbol; half a symbol; a byte that is no digit. -/
theorem witness_DecNormalRules : (∀ q ∈ [coded .ascii 8 7 7 [], coded .ascii 8 1 7 [0x33, 0, 0, 0, 0, 0, 0, 0x43],
      coded .ascii 8 1 0 [0x34], coded .ascii 8 2 0 [0x34, 0x61]], (onG q).ready .get .tx ∧ q.offsetsOk) ∧
    (coded .ascii 8 7 7 []).count = 0 ∧ (coded .ascii 8 1 7 []).count ≠ 0 ∧
    Format.ascii.decodeNormal 0x5E 0x27 2 0x43 0x33 = .ok ⟨.data, 0xC3, 2⟩ ∧
    Format.ascii.decodeNormal 0x5E 0x27 1 0x34 0x34 = .error .nodata ∧
    Format.ascii.decodeNormal 0x5E 0x27 2 0x34 0x61 = .error .malformed := by
  decide +kernel
theorem witness_DecLiteralRules : ∀ q ∈ [coded .binary 8 1 0 [0x27], coded .ascii 8 0 0 [], coded .ascii 8 1 0 [0x27],
    coded .ascii 8 1 7 [0x27, 0, 0, 0, 0, 0, 0, 0x27], coded .asciiEscaped 8 2 0 [0x27, 0x41], coded .ascii 8 1 0 [0x41]],
    (onG q).ready .get .tx ∧ q.offsetsOk := by
  decide +kernel
theorem witness_PeekGetLaw : let s := onG (coded .ascii 8 1 7 [0x33, 0, 0, 0, 0, 0, 0, 0x43])
    s.ready .get .tx ∧ (s.buf .tx).offsetsOk ∧ (stateOf (exec (.decPeek .tx) s)).isSome = true ∧
    (stateOf (exec (.decGet .tx) s)).isSome = true ∧ (stateOf (exec (.decPeekl .tx) s)).isSome = true ∧
    (stateOf (exec (.decGetl .tx) s)).isSome = true := by
  decide +kernel
/-- CD3, with the bytes across the physical end. -/
theorem witness_CodecRoundTrip : let q := coded .asciiEscaped 9 6 7 [0x35, 0x45, 0x41, 0x37, 0x5E, 0x41, 0, 0x5E, 0x73]
    let ys := [CodecSymbol.control 0x73, .data 0x5E, .data 0xA7, .control 0x41]
    (onG q).par.ok = true ∧ (onG q).ready .get .tx ∧ q.offsetsOk ∧ (∀ y ∈ ys, y.representable .asciiEscaped 0x5E = true) ∧
    q.held = (ys.flatMap (CodecSymbol.bytes .asciiEscaped 0x5E)).map some := by
  decide +kernel
/-- The text `48 27`, and one byte behind it. -/
theorem witness_LiteralRoundTrip : let q := coded .ascii 8 6 0 [0x27, 0x48, 0x27, 0x27, 0x27, 0x30]
    (onG q).par.ok = true ∧ (onG q).ready .get .tx ∧ q.offsetsOk ∧ q.fmt.hex = true ∧ (0x30 : Byte) ≠ 0x27 ∧
    q.held = ([0x27] ++ [0x48#8, 0x27#8].flatMap (litBytes 0x27) ++ [0x27, 0x30]).map some ++ [] := by
  decide +kernel

theorem witness_ElapsedLaw : 2147483647 < 4294967296 ∧ 4294967295 < 4294967296 := by decide
/-- PORTERR, BUSY, NOSPACE, a byte that just fits. -/
theorem witness_PdWritebRule : ∀ s ∈ [{ onH (ring 4 0 0 []) .reset with toErr := true }, onH (shadowed 0 (ring 4 0 0 [])) .reset,
    onH (coded .binaryEscaped 4 2 0 [1, 2]) .reset, onH (ring 4 2 0 [1, 2]) .reset], s.ready .host .tx := by
  decide +kernel
theorem witness_PortStatusOps : (onH (ring 4 2 2 []) .reset).ready .host .tx ∧ (onH .reset .reset).accepts .host .tx := by decide +kernel
/-- Faulted; Idle and empty; Idle with a byte, the peripheral busy or ready; deadline reached; not reached; Transmitting, `TX`
empty, the peripheral busy or ready. -/
def portStates : List State := [{ onH (ring 4 1 0 [1]) .reset with fault := true }, onH (ring 4 1 1 [1]) .reset,
  { onH (ring 4 1 0 [1]) .reset with per := { Peripheral.reset with txreg := some 0 } }, onH (ring 4 0 3 [1, 2, 3, 4]) .reset,
  { onH (ring 4 1 0 [1]) .reset with pstate := .transmitting }, { onH (ring 4 1 0 [1]) .reset with pstate := .transmitting, deadline := 1 },
  onH .reset .reset, { onH (ring 4 1 1 []) .reset with pstate := .transmitting },
  { onH (ring 4 1 1 []) .reset with pstate := .transmitting, per := { Peripheral.reset with txreg := some 0 } }]
theorem witness_EvTaskRule : ∀ s ∈ portStates, s.tx.offsetsOk := by decide +kernel
theorem witness_EvTxirqRule : ∀ s ∈ portStates, s.tx.offsetsOk := by decide +kernel
/-- Room for the byte; `RX` full; `RX` not initialised. -/
theorem witness_EvRxirqRule : ∀ q ∈ [ring 3 1 0 [1], ring 3 2 0 [1, 2], Buffer.reset], let s := { draining with rx := q }
    s.fault = false ∧ s.rx.offsetsOk ∧ s.laneI.todo = [.drain] ∧ s.per.rxq = 0x41 :: [] := by
  decide +kernel
/-- The drain over: with no input, a command, an event, a `go` next. -/
theorem witness_EvRxirqRule_over : drained.per.hasRx = false ∧ drained.laneI.todo ≠ [] ∧
    ∀ l ∈ [[], [Input.cmd .h 0x04000000#32 []], [.ev 0b100#3 false], [.go .irq]],
      ∀ i, ({ drained with inputs := l }).inputs.head? = some i → i.agent ≠ none := by
  refine ⟨by decide, by decide, ?_⟩
  simp [Input.agent]
theorem witness_DrainAppends : draining.fault = false ∧ draining.rx.offsetsOk ∧ draining.rx.cap ≠ 0 ∧ draining.laneI.todo = [.drain] := by
  decide +kernel

/-- A step that sets the fault latch (RS5), and a step of a faulted engine. -/
theorem witness_FaultLatch :
    (stateOf (step { onP (ring 8 7 0 [1]) with inputs := [.cmd .p 0x07000008#32 []] })).map (·.fault) = some true ∧
    ({ onP (ring 8 7 0 [1]) with inputs := [.cmd .p 0x07000008#32 []] }).fault = false ∧
    ({ onP (ring 8 7 0 [1]) with fault := true }).fault = true ∧
    ({ onP (ring 8 7 0 [1]) with fault := true }).inputs.head? ≠ some .reset ∧
    (stateOf (step { onP (ring 8 7 0 [1]) with fault := true })).isSome = true := by
  decide +kernel
theorem witness_TimeoutOnly : let s := { onH (ring 4 1 0 [1]) .reset with pstate := .transmitting, inputs := [.ev 0b100#3 false] }
    s.toErr = false ∧ (stateOf (step s)).map (·.toErr) = some true := by
  decide +kernel
theorem witness_OnlyNospaceSetsErr : let s := onP (ring 8 7 0 [1])
    sideOf (.putb .tx 8) ≠ .event ∧ (s.buf .tx).err = false ∧ look (.putb .tx 8) s (fun t => (t.buf .tx).err) = some true := by
  decide +kernel
theorem witness_GetSideFrame : let s := onG (packets .packet 16 5 0 [2, 0xDE, 0xAD, 1, 0xBE])
    Instr.peekat .tx 4 ∈ [Instr.peekat .tx 4] ∧ (stateOf (exec (.peekat .tx 4) s)).isSome = true ∧
    (stateOf (exec (.pktGetc .tx) s)).isSome = true := by
  decide +kernel
theorem witness_PutFrame : (stateOf (exec (.putb .tx 8) (onP (ring 4 3 1 [])))).isSome = true ∧
    (stateOf (exec (.shWrite .tx 2) (onP (shadowed 3 (ring 4 2 2 []))))).isSome = true ∧
    (stateOf (exec (.encCtrl .tx 2) (onP (coded .binaryEscaped 4 2 2 [])))).isSome = true := by
  decide +kernel
theorem witness_HostFrame : (stateOf (exec (.init .tx 4 0 0) (onH .reset .reset))).isSome = true ∧
    (∀ i ∈ [Instr.pdWriteb 1, .clrerr .tx, .pdClrerr, .evRxirq, .evTxirq, .evTask],
      (stateOf (exec i (onH (ring 4 1 0 [1]) .reset))).isSome = true) := by
  decide +kernel

end Sys2Proof.Tests
end

/-! # Proofs: the state, its invariant and its frames -/

namespace Sys2Proof.Machine

open Sys2Proof.Config

/-! ## What a result can answer

`Post P r` is the postcondition of a meaning: one rule for each shared operation of Machine/Ops.lean, so that the proofs
about the instructions apply these rules and do not unfold the operations again. -/

/-- Every next state that the result can answer meets `P` (a fault or a refusal answers none). -/
def Post (P : State → Prop) (r : Result) : Prop := ∀ t, r = .next t → P t

section Rules

variable {P : State → Prop} {s : State} {b : BufSel} {v : Byte} {side : Side} {body : Result}

@[simp] theorem post_next {t : State} : Post P (.next t) ↔ P t := by
  simp [Post]

@[simp] theorem post_refused {e : Refusal} : Post P (.refused e) := by
  simp [Post]

theorem Post.mono {Q : State → Prop} {r : Result} (h : Post P r) (hPQ : ∀ t, P t → Q t) : Post Q r :=
  fun t ht => hPQ t (h t ht)

/-- A check that refuses (60_exceptions.md R243), then the rest. -/
theorem Post.guard {c : Prop} [Decidable c] {st : Status} (hr : P (s.refuse st)) (hb : ¬ c → Post P body) :
    Post P (if c then .next (s.refuse st) else body) := by
  split
  · exact post_next.2 hr
  · exact hb ‹_›

theorem Post.command (hr : ∀ st, P (s.refuse st)) (hb : s.ready side b → Post P body) :
    Post P (s.command side b body) := by
  obtain ⟨h, e⟩ | ⟨st, -, e⟩ := s.command_cases side b body <;> rw [e]
  · exact hb h
  · exact post_next.2 (hr st)

theorem Post.commandAnytime (hr : ∀ st, P (s.refuse st)) (hb : s.accepts side b → Post P body) :
    Post P (s.commandAnytime side b body) := by
  obtain ⟨h, e⟩ | ⟨st, -, e⟩ := s.commandAnytime_cases side b body <;> rw [e]
  · exact hb h
  · exact post_next.2 (hr st)

/-- A read (20_memory.md R67): only the counter of free draws can change. -/
theorem Post.withByte {off : Nat} {k : Byte → State → Result}
    (h : ∀ x d, off < (s.buf b).cap.toNat → Post P (k x { s with draws := d })) : Post P (s.withByte b off k) := by
  intro t ht
  obtain ⟨hlt, hk⟩ := State.withByte_next ht
  obtain ⟨d, hd, -, -⟩ := s.afterRead_eq b off
  rw [hd] at hk
  exact h _ d hlt t hk

theorem Post.withWrite {off : Nat} {k : State → Result}
    (h : off < (s.buf b).cap.toNat →
      Post P (k (s.setBuf b { s.buf b with store := Memory.write (s.buf b).store off v }))) :
    Post P (s.withWrite b off v k) := by
  intro t ht
  obtain ⟨hlt, hk⟩ := State.withWrite_next ht
  exact h hlt t hk

theorem Post.withPut {k : State → Result}
    (h : Post P (k (s.setBuf b { s.buf b with
      store := Memory.write (s.buf b).store (s.buf b).put.toNat v
      put := half ((s.buf b).inc (s.buf b).put.toNat) }))) :
    Post P (s.withPut b v k) := by
  intro t ht
  rw [State.withPut_below (State.withWrite_next ht).1] at ht
  exact h t ht

theorem Post.withFill {k : State → Result}
    (h : Post P (k (s.setBuf b { s.buf b with
      store := Memory.write (s.buf b).store (s.buf b).put.toNat 0xFF#8
      put := half 0 }))) :
    Post P (s.withFill b k) := by
  intro t ht
  rw [State.withFill_below (State.withWrite_next ht).1] at ht
  exact h t ht

/-- The bytes of a symbol (20_memory.md R60, 43_codec.md R185): no room, one byte at once, or micro-steps. -/
theorem Post.storeAll {bs : List Byte} (hfull : P (s.refuseNoSpace b))
    (hone : ∀ x, bs = [x] → bs.length ≤ (s.buf b).free → P ((s.setBuf b { s.buf b with
      store := Memory.write (s.buf b).store (s.buf b).put.toNat x
      put := half ((s.buf b).inc (s.buf b).put.toNat) }).ret .none 1 0))
    (hmany : bs.length ≤ (s.buf b).free → bs.length ≠ 1 → ∀ r, P (s.begin (putSteps b bs) r)) :
    Post P (s.storeAll b bs) := by
  unfold State.storeAll
  split
  · exact post_next.2 hfull
  · have hroom : bs.length ≤ (s.buf b).free := by omega
    split
    · exact Post.withPut (post_next.2 (hone _ rfl hroom))
    · rename_i hne
      refine post_next.2 (hmany hroom (fun h => ?_) _)
      obtain ⟨x, hx⟩ := List.length_eq_one_iff.1 h
      exact hne x hx

/-- The one or two bytes at `get` (43_codec.md R189). -/
theorem Post.withTwoBytes {k : Byte → Byte → State → Result}
    (h : ∀ b0 b1 d, Post P (k b0 b1 { s with draws := d })) : Post P (s.withTwoBytes b k) := by
  refine Post.withByte fun b0 d _ => ?_
  split
  · exact h b0 b0 d
  · exact Post.withByte fun b1 e _ => h b0 b1 e

/-- A decode (43_codec.md R189): a refusal, or a symbol that `dec` finds in at least one held byte. -/
theorem Post.decodeWith {dec : Nat → Byte → Byte → Except Status Symbol} {k : Symbol → State → Result}
    (hr : ∀ st d, P (State.refuse st { s with draws := d }))
    (h : ∀ b0 b1 y d, (s.buf b).count ≠ 0 → dec (s.buf b).count b0 b1 = .ok y → Post P (k y { s with draws := d })) :
    Post P (s.decodeWith b dec k) := by
  unfold State.decodeWith
  split
  · exact post_next.2 (hr _ s.draws)
  · rename_i hc
    refine Post.withTwoBytes fun b0 b1 d => ?_
    split
    · exact post_next.2 (hr _ d)
    · rename_i y hy
      exact h b0 b1 y d hc hy

/-- One round of the packet check (42_framing.md R165): a filler is found only where the producer has passed it. -/
theorem Post.scanPacket {k : Scan → State → Result}
    (h : ∀ r d, (r = .filler → (s.buf b).put.toNat < (s.buf b).get.toNat) → Post P (k r { s with draws := d })) :
    Post P (s.scanPacket b k) := by
  have hjudge : ∀ (q : Buffer) n, q.judgeLength n = .filler → (s.buf b).put.toNat < (s.buf b).get.toNat := by
    intro q n hn
    unfold Buffer.judgeLength at hn
    repeat' split at hn
    all_goals cases hn
  have hbuf : ∀ d, State.buf { s with draws := d } b = s.buf b := fun _ => by cases b <;> rfl
  unfold State.scanPacket
  split
  · exact h _ s.draws nofun
  · refine Post.withByte fun b0 d _ => ?_
    simp only [hbuf]
    split
    · split
      · rename_i hlt
        exact h _ d fun _ => hlt
      · exact h _ d nofun
    · split
      · split
        · exact h _ d nofun
        · exact Post.withByte fun b1 e _ => h _ e (hjudge _ _)
      · exact h _ d (hjudge _ _)

end Rules

end Sys2Proof.Machine

/-! ## Rules about the invariant

What the invariant sees of a state, and how it survives each kind of change: of a Buffer by its consumer, of a Buffer by its
producer, and of what an agent has pending. -/

namespace Sys2Proof.Machine

open Sys2Proof.Config

/-! ### Who may change what -/

/-- The agent that can have puts into `TX` pending (44_portdriver.md R224, 60_exceptions.md R251). -/
def producer : EngineKind → Agent
  | .bufferEngine => .p
  | .portEngine => .h

/-- The agent of the get side (44_portdriver.md R224, 60_exceptions.md R251). -/
def consumer : EngineKind → Agent
  | .bufferEngine => .g
  | .portEngine => .h

/-- The buffer of the get side. -/
def consumed : EngineKind → BufSel
  | .bufferEngine => .tx
  | .portEngine => .rx

section Entry

variable {s : State} {b : BufSel}

/-- A put-side command is accepted on `TX` only, from its producer. -/
theorem State.ready_put (h : s.ready .put b) : b = .tx ∧ s.actor = producer s.par.kind ∧ s.fault = false := by
  obtain ⟨⟨hf, hi, hp⟩, -⟩ := h
  cases hk : s.par.kind <;> cases ha : s.actor <;> cases b <;>
    simp_all [portAccepts, illegalHere, producer]

/-- A get-side command is accepted on the consumed buffer only, from its consumer. -/
theorem State.ready_get (h : s.ready .get b) :
    b = consumed s.par.kind ∧ s.actor = consumer s.par.kind ∧ s.fault = false := by
  obtain ⟨⟨hf, hi, hp⟩, -⟩ := h
  cases hk : s.par.kind <;> cases ha : s.actor <;> cases b <;>
    simp_all [portAccepts, illegalHere, consumer, consumed]

/-- A host operation is accepted by a PortEngine only, from the task agent. -/
theorem State.ready_host (h : s.ready .host b) : s.par.kind = .portEngine ∧ s.actor = .h ∧ s.fault = false := by
  obtain ⟨⟨hf, hi, hp⟩, -⟩ := h
  cases hk : s.par.kind <;> cases ha : s.actor <;> cases b <;> simp_all [portAccepts, illegalHere]

end Entry

/-! ### What the invariant sees -/

/-- The two states agree in everything the invariant speaks of. -/
def State.Agrees (s t : State) : Prop :=
  t.par = s.par ∧ t.tx = s.tx ∧ t.rx = s.rx ∧ t.fault = s.fault ∧ t.pstate = s.pstate ∧
    ∀ a, (t.lane a).todo = (s.lane a).todo

/-- Replace the pending micro-steps of an agent. -/
def State.setTodo (s : State) (a : Agent) (ms : List Micro) : State :=
  s.setLane a { s.lane a with todo := ms }

section Agreement

variable {s t : State}

theorem State.Agrees.symm (h : s.Agrees t) : t.Agrees s := by
  obtain ⟨hp, ht, hr, hf, hs, hl⟩ := h
  exact ⟨hp.symm, ht.symm, hr.symm, hf.symm, hs.symm, fun a => (hl a).symm⟩

theorem State.Inv.of_agrees (h : s.Inv) (e : s.Agrees t) : t.Inv := by
  obtain ⟨hp, ht, hr, hf, hs, hl⟩ := e
  have hP := hl .p
  have hG := hl .g
  have hH := hl .h
  have hI := hl .irq
  simp only [State.lane_p, State.lane_g, State.lane_h, State.lane_irq] at hP hG hH hI
  simpa only [State.Inv, State.lanesOk, State.quiet, hp, ht, hr, hf, hs, hP, hG, hH, hI] using h

theorem State.Agrees.inv_iff (e : s.Agrees t) : t.Inv ↔ s.Inv :=
  ⟨fun h => h.of_agrees e.symm, fun h => h.of_agrees e⟩

theorem State.agrees_respond (s : State) (r : Response) : s.Agrees (s.respond r) := by
  simp [State.Agrees]

@[simp] theorem State.inv_ret {kind : Kind} {m n : Nat} : (s.ret kind m n).Inv ↔ s.Inv :=
  (s.agrees_respond _).inv_iff

@[simp] theorem State.inv_raise {st : Status} {m n : Nat} : (s.raise st m n).Inv ↔ s.Inv :=
  (s.agrees_respond _).inv_iff

@[simp] theorem State.inv_refuse {st : Status} : (s.refuse st).Inv ↔ s.Inv :=
  (s.agrees_respond _).inv_iff

/-- The fields outside the invariant: outside the engine, and the model's own. -/
theorem State.agrees_outside (s : State) (d : Word) (e : Bool) (q : Peripheral) (n : Word) (a : Agent) (l : List Input)
    (k : Nat) :
    s.Agrees { s with deadline := d, toErr := e, per := q, now := n, actor := a, inputs := l, draws := k } :=
  ⟨rfl, rfl, rfl, rfl, rfl, fun x => by cases x <;> rfl⟩

@[simp] theorem State.inv_draws {d : Nat} : State.Inv { s with draws := d } ↔ s.Inv :=
  (s.agrees_outside s.deadline s.toErr s.per s.now s.actor s.inputs d).inv_iff

@[simp] theorem State.inv_per {q : Peripheral} : State.Inv { s with per := q } ↔ s.Inv :=
  (s.agrees_outside s.deadline s.toErr q s.now s.actor s.inputs s.draws).inv_iff

@[simp] theorem State.inv_inputs {l : List Input} : State.Inv { s with inputs := l } ↔ s.Inv :=
  (s.agrees_outside s.deadline s.toErr s.per s.now s.actor l s.draws).inv_iff

@[simp] theorem State.inv_actor {a : Agent} : State.Inv { s with actor := a } ↔ s.Inv :=
  (s.agrees_outside s.deadline s.toErr s.per s.now a s.inputs s.draws).inv_iff

@[simp] theorem State.inv_deadline {d : Word} : State.Inv { s with deadline := d } ↔ s.Inv :=
  (s.agrees_outside d s.toErr s.per s.now s.actor s.inputs s.draws).inv_iff

@[simp] theorem State.inv_toErr {e : Bool} : State.Inv { s with toErr := e } ↔ s.Inv :=
  (s.agrees_outside s.deadline e s.per s.now s.actor s.inputs s.draws).inv_iff

@[simp] theorem State.inv_now {n : Word} : State.Inv { s with now := n } ↔ s.Inv :=
  (s.agrees_outside s.deadline s.toErr s.per n s.actor s.inputs s.draws).inv_iff

/-- Giving the response of the last micro-step leaves what is pending. -/
@[simp] theorem State.inv_settle : s.settle.Inv ↔ s.Inv := by
  refine State.Agrees.inv_iff ?_
  unfold State.settle
  dsimp only
  split
  · rename_i htodo _
    refine ⟨by simp, by simp, by simp, by simp, by simp, fun x => ?_⟩
    by_cases hx : x = s.actor
    · simp [hx, htodo]
    · rw [State.lane_setLane_of_ne _ _ hx]
  · exact ⟨rfl, rfl, rfl, rfl, rfl, fun _ => rfl⟩

@[simp] theorem State.inv_begin {ms : List Micro} {r : Option Response} :
    (s.begin ms r).Inv ↔ (s.setTodo s.actor ms).Inv := by
  refine State.Agrees.inv_iff ⟨by simp [State.setTodo], by simp [State.setTodo], by simp [State.setTodo],
    by simp [State.setTodo], by simp [State.setTodo], fun x => ?_⟩
  unfold State.begin State.setTodo
  by_cases hx : x = s.actor
  · simp [hx]
  · rw [State.lane_setLane_of_ne _ _ hx, State.lane_setLane_of_ne _ _ hx]

theorem State.Inv.setPstate (h : s.Inv) {p : TxState} (hp : p ≠ .stopping) : State.Inv { s with pstate := p } := by
  obtain ⟨hpar, htx, hrx, hl, hq, -⟩ := h
  exact ⟨hpar, htx, hrx, hl, hq, hp⟩

end Agreement

/-! ### The parts of the invariant -/

section Parts

variable {s : State} {b : BufSel} {a : Agent}

theorem State.Inv.buf_ok (h : s.Inv) (b : BufSel) : (s.buf b).ok (s.par.buf b) s.par.minCap := by
  obtain ⟨-, htx, hrx, -⟩ := h
  cases b
  · exact htx
  · exact hrx

/-- The offsets of an initialised buffer (10_state.md R24). -/
theorem State.Inv.offsets (h : s.Inv) {b : BufSel} (hc : (s.buf b).cap ≠ 0) :
    (s.buf b).put.toNat < (s.buf b).cap.toNat ∧ (s.buf b).get.toNat < (s.buf b).cap.toNat := by
  obtain ⟨⟨ho, -⟩, -⟩ := h.buf_ok b
  exact ho hc

theorem Buffer.putsOk_nil (q : Buffer) (b : BufSel) (kick : Bool) : q.putsOk b kick [] :=
  ⟨rfl, Nat.zero_le _, fun h => absurd rfl h⟩

/-- What an agent with something pending can be: the producer of `TX`, the consumer, or the receive drain; and the engine is
not faulted (20_memory.md R60, R62; 44_portdriver.md R225; 60_exceptions.md R244). -/
theorem State.Inv.pending_cases (h : s.Inv) {m : Micro} {rest : List Micro} (hm : (s.lane a).todo = m :: rest) :
    s.fault = false ∧
      ((a = producer s.par.kind ∧ s.tx.putsOk .tx (s.par.kind == .portEngine) (m :: rest)) ∨
        (a = consumer s.par.kind ∧ rest = [] ∧
          (m = .pktHas (consumed s.par.kind) ∨ m = .pktGetc (consumed s.par.kind))) ∨
        (a = .irq ∧ s.par.kind = .portEngine ∧ m = .drain ∧ rest = [])) := by
  obtain ⟨-, -, -, hl, hq, -⟩ := h
  have hget : ∀ b, getList b (m :: rest) = true → rest = [] ∧ (m = .pktHas b ∨ m = .pktGetc b) := by
    intro b hb
    unfold getList at hb
    split at hb <;> simp_all
  constructor
  · by_contra hf
    obtain ⟨hp, hg, hh, hi⟩ := hq (by simpa using hf)
    cases a <;> simp_all
  · unfold State.lanesOk at hl
    cases hk : s.par.kind <;> simp only [hk] at hl
    · obtain ⟨hh, hi, hp, hg⟩ := hl
      cases a with
      | p => exact .inl ⟨rfl, hm ▸ hp⟩
      | g => exact .inr (.inl ⟨rfl, hget _ (hm ▸ hg)⟩)
      | h => exact absurd (hh.symm.trans hm) nofun
      | irq => exact absurd (hi.symm.trans hm) nofun
    · obtain ⟨hp, hg, hi, -, hh⟩ := hl
      cases a with
      | p => exact absurd (hp.symm.trans hm) nofun
      | g => exact absurd (hg.symm.trans hm) nofun
      | h =>
        rcases hh with hh | hh
        · exact .inl ⟨rfl, hm ▸ hh⟩
        · exact .inr (.inl ⟨rfl, hget _ (hm ▸ hh)⟩)
      | irq =>
        rcases hi with hi | hi
        · exact absurd (hi.symm.trans hm) nofun
        · obtain ⟨rfl, rfl⟩ := List.cons.inj (hm.symm.trans hi)
          exact .inr (.inr ⟨rfl, rfl, rfl, rfl⟩)

/-- No transaction is open in the buffer of the receive drain (41_shadow.md R154). -/
theorem State.Inv.rx_shv (h : s.Inv) (hk : s.par.kind = .portEngine) : s.rx.shv = false := by
  obtain ⟨-, -, -, hl, -, -⟩ := h
  simp only [State.lanesOk, hk] at hl
  obtain ⟨-, -, -, hs, -⟩ := hl
  exact hs

end Parts

/-! ### Changing a Buffer -/

/-- A change of a Buffer that leaves every producer its space: what its consumer does, and what concerns neither side. -/
structure Buffer.Eases (q q' : Buffer) : Prop where
  ok   : ∀ {p m}, q.ok p m → q'.ok p m
  puts : ∀ {b kick ms}, q.putsOk b kick ms → q'.putsOk b kick ms
  shv  : q'.shv = q.shv

section Ease

variable {q : Buffer} {p : BufParams} {m : Nat}

theorem Buffer.eases_err (e : Bool) : q.Eases { q with err := e } := ⟨(Buffer.ok_err · e), id, rfl⟩

/-- The consumer moves `get`, not past `put` (20_memory.md R61). -/
theorem Buffer.eases_get {x : Nat} (hx : x < q.cap.toNat) (hc : Buffer.count { q with get := half x } ≤ q.count)
    (hle : q.get.toNat ≤ q.put.toNat → q.get.toNat ≤ x ∧ x ≤ q.put.toNat) :
    q.Eases { q with get := half x } where
  ok h := Buffer.ok_get h hx hc
  puts := fun ⟨hl, hr, hs⟩ => ⟨hl, Buffer.room_get hr (Nat.lt_trans hx q.cap_lt) hc hle, hs⟩
  shv := rfl

/-- Taking `n` of the held bytes (40_ringstore.md R120, R123; 43_codec.md R191). -/
theorem Buffer.eases_take (h : q.ok p m) (hc : q.cap ≠ 0) {n : Nat} (hn : n ≤ q.count) :
    q.Eases { q with get := half (q.add q.get.toNat n) } := by
  obtain ⟨⟨ho, -⟩, -⟩ := h
  obtain ⟨hput, hget⟩ := ho hc
  obtain ⟨hlt, hcount, hle⟩ := Buffer.take_props hput hget hn
  exact Buffer.eases_get hlt (by omega) hle

/-- Removing a filler (42_framing.md R165). -/
theorem Buffer.eases_unfill (h : q.ok p m) (hlt : q.put.toNat < q.get.toNat) : q.Eases { q with get := half 0 } := by
  obtain ⟨⟨ho, hz⟩, -⟩ := h
  have hc : q.cap ≠ 0 := by
    intro hc
    obtain ⟨hput, hget, -⟩ := hz hc
    simp [hput, hget] at hlt
  exact Buffer.eases_get (Buffer.cap_pos hc) (Buffer.unfill_props (ho hc).2 hlt) fun hle => by omega

/-- Discarding everything held (44_portdriver.md R222). -/
theorem Buffer.eases_flush (h : q.ok p m) : q.Eases { q with get := q.put } := by
  obtain ⟨⟨ho, hz⟩, -⟩ := h
  by_cases hc : q.cap = 0
  · obtain ⟨hput, hget, -⟩ := hz hc
    have hsame : { q with get := q.put } = q := by rw [Buffer.mk.injEq]; simp [hput, hget]
    rw [hsame]
    exact ⟨id, id, rfl⟩
  · have := Buffer.eases_get (q := q) (x := q.put.toNat) (ho hc).1 (by simp [Buffer.count]) fun hle => ⟨hle, Nat.le_refl _⟩
    simpa using this

end Ease

section SetBuf

variable {s : State} {b : BufSel} {q : Buffer}

theorem State.Inv.setBuf_of_eases (h : s.Inv) (e : (s.buf b).Eases q) : (s.setBuf b q).Inv := by
  obtain ⟨hpar, htx, hrx, hl, hq, hs⟩ := h
  unfold State.lanesOk at hl
  cases b with
  | tx =>
    refine ⟨hpar, e.ok htx, hrx, ?_, hq, hs⟩
    unfold State.lanesOk
    cases hk : s.par.kind <;> simp only [hk] at hl <;> simp only [State.setBuf, hk]
    · obtain ⟨hh, hi, hp, hg⟩ := hl
      exact ⟨hh, hi, e.puts hp, hg⟩
    · obtain ⟨hp, hg, hi, hsh, hh⟩ := hl
      exact ⟨hp, hg, hi, hsh, hh.imp_left e.puts⟩
  | rx =>
    refine ⟨hpar, htx, e.ok hrx, ?_, hq, hs⟩
    unfold State.lanesOk
    cases hk : s.par.kind <;> simp only [hk] at hl <;> simp only [State.setBuf, hk]
    · exact hl
    · obtain ⟨hp, hg, hi, hsh, hh⟩ := hl
      exact ⟨hp, hg, hi, e.shv.trans hsh, hh⟩

/-- `TX` takes a form in which what its producer has pending has its space. -/
theorem State.Inv.setBuf_tx (h : s.Inv) (hq : q.ok s.par.tx s.par.minCap)
    (hp : q.putsOk .tx (s.par.kind == .portEngine) (s.lane (producer s.par.kind)).todo) : (s.setBuf .tx q).Inv := by
  obtain ⟨hpar, -, hrx, hl, hqt, hs⟩ := h
  refine ⟨hpar, hq, hrx, ?_, hqt, hs⟩
  unfold State.lanesOk at hl ⊢
  cases hk : s.par.kind <;> simp only [hk] at hl <;> simp only [State.setBuf, hk] <;> rw [hk] at hp
  · obtain ⟨hh, hi, -, hg⟩ := hl
    exact ⟨hh, hi, hp, hg⟩
  · obtain ⟨hpn, hg, hi, hsh, -⟩ := hl
    exact ⟨hpn, hg, hi, hsh, .inl hp⟩

theorem State.Inv.setBuf_rx (h : s.Inv) (hq : q.ok s.par.rx s.par.minCap)
    (hshv : s.par.kind = .portEngine → q.shv = false) : (s.setBuf .rx q).Inv := by
  obtain ⟨hpar, htx, -, hl, hqt, hs⟩ := h
  refine ⟨hpar, htx, hq, ?_, hqt, hs⟩
  unfold State.lanesOk at hl ⊢
  cases hk : s.par.kind <;> simp only [hk] at hl <;> simp only [State.setBuf, hk]
  · exact hl
  · obtain ⟨hp, hg, hi, -, hh⟩ := hl
    exact ⟨hp, hg, hi, hshv hk, hh⟩

theorem State.Inv.refuseNoSpace (h : s.Inv) (b : BufSel) : (s.refuseNoSpace b).Inv :=
  State.inv_refuse.2 (h.setBuf_of_eases (Buffer.eases_err true))

end SetBuf

/-! ### Changing what is pending -/

section Pending

variable {s : State} {ms : List Micro}

/-- The producer of `TX` gets micro-steps for which there is space. -/
theorem State.Inv.setTodo_producer (h : s.Inv) (hf : s.fault = false)
    (hp : s.tx.putsOk .tx (s.par.kind == .portEngine) ms) : (s.setTodo (producer s.par.kind) ms).Inv := by
  obtain ⟨hpar, htx, hrx, hl, -, hs⟩ := h
  unfold State.lanesOk at hl
  cases hk : s.par.kind <;> simp only [hk] at hl <;> rw [hk] at hp
  · obtain ⟨hh, hi, -, hg⟩ := hl
    refine ⟨hpar, htx, hrx, ?_, fun hfault => absurd (hf.symm.trans hfault) nofun, hs⟩
    simp only [State.lanesOk, State.setTodo, State.setLane, producer, hk]
    exact ⟨hh, hi, hp, hg⟩
  · obtain ⟨hpn, hg, hi, hsh, -⟩ := hl
    refine ⟨hpar, htx, hrx, ?_, fun hfault => absurd (hf.symm.trans hfault) nofun, hs⟩
    simp only [State.lanesOk, State.setTodo, State.setLane, producer, hk]
    exact ⟨hpn, hg, hi, hsh, .inl hp⟩

/-- The consumer gets the next round of a packet check. -/
theorem State.Inv.setTodo_consumer (h : s.Inv) (hf : s.fault = false) (hg : getList (consumed s.par.kind) ms = true) :
    (s.setTodo (consumer s.par.kind) ms).Inv := by
  obtain ⟨hpar, htx, hrx, hl, -, hs⟩ := h
  unfold State.lanesOk at hl
  cases hk : s.par.kind <;> simp only [hk] at hl <;> rw [hk] at hg
  · obtain ⟨hh, hi, hp, -⟩ := hl
    refine ⟨hpar, htx, hrx, ?_, fun hfault => absurd (hf.symm.trans hfault) nofun, hs⟩
    simp only [State.lanesOk, State.setTodo, State.setLane, consumer, hk]
    exact ⟨hh, hi, hp, hg⟩
  · obtain ⟨hpn, hgn, hi, hsh, -⟩ := hl
    refine ⟨hpar, htx, hrx, ?_, fun hfault => absurd (hf.symm.trans hfault) nofun, hs⟩
    simp only [State.lanesOk, State.setTodo, State.setLane, consumer, hk]
    exact ⟨hpn, hgn, hi, hsh, .inr hg⟩

/-- The receive drain is pending, or pending no more. -/
theorem State.Inv.setTodo_irq (h : s.Inv) (hms : ms = [] ∨ s.fault = false ∧ s.par.kind = .portEngine ∧ ms = [.drain]) :
    (s.setTodo .irq ms).Inv := by
  obtain ⟨hpar, htx, hrx, hl, hq, hs⟩ := h
  refine ⟨hpar, htx, hrx, ?_, fun hfault => ?_, hs⟩
  · unfold State.lanesOk at hl
    unfold State.lanesOk State.setTodo State.setLane
    cases hk : s.par.kind <;> simp only [hk] at hl hms ⊢
    · obtain ⟨hh, -, hp, hg⟩ := hl
      exact ⟨hh, hms.resolve_right nofun, hp, hg⟩
    · obtain ⟨hp, hg, -, hsh, hh⟩ := hl
      exact ⟨hp, hg, hms.imp_right fun ⟨_, _, e⟩ => e, hsh, hh⟩
  · obtain ⟨hp, hg, hh, -⟩ := hq hfault
    refine ⟨hp, hg, hh, hms.resolve_right fun ⟨hf, _⟩ => ?_⟩
    exact absurd (hf.symm.trans hfault) nofun

/-- The fault latch drops what is pending (60_exceptions.md R244). -/
theorem State.Inv.latchFault (h : s.Inv) : s.latchFault.Inv := by
  obtain ⟨hpar, htx, hrx, hl, -, hs⟩ := h
  have hdrop : ∀ l : Lane, l.drop.todo = [] := by
    intro l
    unfold Lane.drop
    split
    · assumption
    · rfl
  refine ⟨hpar, htx, hrx, ?_, fun _ => ⟨hdrop _, hdrop _, hdrop _, rfl⟩, hs⟩
  unfold State.lanesOk at hl ⊢
  cases hk : s.par.kind <;> simp only [hk] at hl <;> simp only [State.latchFault, hk]
  · rw [hdrop s.laneP, hdrop s.laneG]
    exact ⟨hdrop _, rfl, Buffer.putsOk_nil _ _ _, rfl⟩
  · obtain ⟨-, -, -, hsh, -⟩ := hl
    rw [hdrop s.laneH]
    exact ⟨hdrop _, hdrop _, .inl rfl, hsh, .inl (Buffer.putsOk_nil _ _ _)⟩

end Pending

end Sys2Proof.Machine

/-! ## The invariant and the pending puts -/

namespace Sys2Proof.Machine

open Sys2Proof.Config

section Puts

variable {q : Buffer} {b c : BufSel} {kick : Bool} {ms rest : List Micro}

theorem putTail_mono (h : putTail b false ms = true) : putTail b kick ms = true := by
  induction ms with
  | nil => rfl
  | cons m ms ih => cases m <;> simp_all [putTail]

/-- Puts that no filler precedes: their space is the free bytes (20_memory.md R61). -/
theorem Buffer.putsOk_of_putTail (hl : putTail b kick ms = true) (hroom : putsIn ms ≤ q.free) (hc : q.cap ≠ 0)
    (hs : q.shv = false) : q.putsOk b kick ms := by
  refine ⟨?_, ?_, fun _ => ⟨hc, hs⟩⟩
  · unfold putList
    split
    · simp [putTail] at hl
    · exact hl
  · unfold Buffer.room
    split
    · simp [putTail] at hl
    · exact hroom

theorem Buffer.putsOk_uput {v : Byte} (h : q.putsOk b kick (.uput c v :: rest)) :
    c = b ∧ putTail b kick rest = true ∧ putsIn rest + 1 ≤ q.free ∧ q.cap ≠ 0 ∧ q.shv = false := by
  obtain ⟨hl, hroom, hs⟩ := h
  obtain ⟨hc, hs⟩ := hs nofun
  simp only [putList, putTail, Bool.and_eq_true, beq_iff_eq] at hl
  exact ⟨hl.1, hl.2, hroom, hc, hs⟩

theorem Buffer.putsOk_fill (h : q.putsOk b kick (.fill c :: rest)) :
    c = b ∧ putTail b kick rest = true ∧ q.get.toNat ≤ q.put.toNat ∧ putsIn rest + 1 ≤ q.get.toNat ∧ q.cap ≠ 0 ∧
      q.shv = false := by
  obtain ⟨hl, hroom, hs⟩ := h
  obtain ⟨hc, hs⟩ := hs nofun
  simp only [putList, Bool.and_eq_true, beq_iff_eq] at hl
  exact ⟨hl.1, putTail_mono hl.2, hroom.1, hroom.2, hc, hs⟩

/-- The kick-start is the last micro-step (44_portdriver.md R217). -/
theorem Buffer.putsOk_kick (h : q.putsOk b kick (.kick :: rest)) : rest = [] := by
  obtain ⟨hl, -, -⟩ := h
  simp only [putList, putTail, Bool.and_eq_true, beq_iff_eq] at hl
  exact hl.2

/-- After a put, what is still pending has its space (20_memory.md R61). -/
theorem Buffer.putsOk_after_uput {v : Byte} (hp : q.put.toNat < q.cap.toNat) (hg : q.get.toNat < q.cap.toNat)
    (h : q.putsOk b kick (.uput c v :: rest)) (st : Memory) :
    Buffer.putsOk { q with store := st, put := half (q.inc q.put.toNat) } b kick rest := by
  obtain ⟨-, hl, hroom, hc, hs⟩ := Buffer.putsOk_uput h
  have hfull : q.isFull = false := by
    rw [← Bool.not_eq_true, Buffer.isFull_iff_free hp hg]
    omega
  obtain ⟨-, hfree⟩ := Buffer.put_counts hp hg hfull st
  exact Buffer.putsOk_of_putTail hl (by omega) hc hs

theorem Buffer.putsOk_after_fill (hg : q.get.toNat < q.cap.toNat) (h : q.putsOk b kick (.fill c :: rest)) (st : Memory) :
    Buffer.putsOk { q with store := st, put := half 0 } b kick rest := by
  obtain ⟨-, hl, -, hroom, hc, hs⟩ := Buffer.putsOk_fill h
  have hfree := Buffer.fill_free hg (by omega) st
  exact Buffer.putsOk_of_putTail hl (by omega) hc hs

theorem putTail_putSteps (bs : List Byte) : putTail b kick (putSteps b bs ++ ms) = putTail b kick ms := by
  induction bs with
  | nil => rfl
  | cons v bs ih => simpa [putSteps, putTail] using ih

theorem putsIn_putSteps (bs : List Byte) : putsIn (putSteps b bs ++ ms) = bs.length + putsIn ms := by
  induction bs with
  | nil => simp [putSteps]
  | cons v bs ih =>
    simp only [putSteps, List.map_cons, List.cons_append, putsIn, List.length_cons] at ih ⊢
    omega

/-- The bytes for which an entry check has found the space (20_memory.md R60, R61). -/
theorem Buffer.putsOk_putSteps {bs : List Byte} (hroom : bs.length ≤ q.free) (hc : q.cap ≠ 0) (hs : q.shv = false) :
    q.putsOk b kick (putSteps b bs) := by
  rw [← List.append_nil (putSteps b bs)]
  refine Buffer.putsOk_of_putTail ?_ ?_ hc hs
  · rw [putTail_putSteps]
    rfl
  · rw [putsIn_putSteps]
    exact hroom

/-- The same, with the kick-start behind them (44_portdriver.md R217). -/
theorem Buffer.putsOk_putSteps_kick {bs : List Byte} (hroom : bs.length ≤ q.free) (hc : q.cap ≠ 0) (hs : q.shv = false) :
    q.putsOk b true (putSteps b bs ++ [.kick]) := by
  refine Buffer.putsOk_of_putTail ?_ ?_ hc hs
  · rw [putTail_putSteps]
    rfl
  · rw [putsIn_putSteps]
    exact hroom

theorem BufType.prefixBytes_length (t : BufType) (n : Nat) : (t.prefixBytes n).length = t.prefixSize := by
  cases t <;> rfl

/-- The micro-steps of a packet that was placed (42_framing.md R164). -/
theorem Buffer.putsOk_packetSteps {payload : List Byte} {wrap : Bool} (hp : q.put.toNat < q.cap.toNat)
    (hg : q.get.toNat < q.cap.toNat) (hs : q.shv = false)
    (hplace : q.placePacket (q.typ.prefixSize + payload.length) = some wrap) :
    q.putsOk b kick (packetSteps b q.typ wrap payload) := by
  have hc : q.cap ≠ 0 := by
    rintro hc
    simp [hc] at hp
  have hlen : (q.typ.prefixBytes payload.length ++ payload).length = q.typ.prefixSize + payload.length := by
    rw [List.length_append, BufType.prefixBytes_length]
  obtain ⟨hput, hwrap⟩ := Buffer.placePacket_room hp hg (need := q.typ.prefixSize + payload.length)
  cases wrap with
  | false => exact Buffer.putsOk_putSteps (by rw [hlen]; exact hput hplace) hc hs
  | true =>
    obtain ⟨hle, hneed⟩ := hwrap hplace
    have htail := putTail_putSteps (b := b) (kick := false) (ms := []) (q.typ.prefixBytes payload.length ++ payload)
    have hputs := putsIn_putSteps (b := b) (ms := []) (q.typ.prefixBytes payload.length ++ payload)
    rw [List.append_nil] at htail hputs
    refine ⟨?_, ⟨hle, ?_⟩, fun _ => ⟨hc, hs⟩⟩
    · simp [packetSteps, putList, htail, putTail]
    · show putsIn (putSteps b (q.typ.prefixBytes payload.length ++ payload)) + 1 ≤ q.get.toNat
      rw [hputs, hlen]
      exact hneed

/-- Dropping the first of them keeps the space of the rest. -/
theorem Buffer.putsOk_tail {m : Micro} (hput : q.cap ≠ 0 → q.put.toNat < q.cap.toNat) (h : q.putsOk b kick (m :: rest)) :
    q.putsOk b kick rest := by
  cases m with
  | uput c v =>
    obtain ⟨-, hl, hroom, hc, hs⟩ := Buffer.putsOk_uput h
    exact Buffer.putsOk_of_putTail hl (by omega) hc hs
  | fill c =>
    obtain ⟨-, hl, hle, hroom, hc, hs⟩ := Buffer.putsOk_fill h
    have hp := hput hc
    refine Buffer.putsOk_of_putTail hl ?_ hc hs
    simp only [Buffer.free, Buffer.count, if_pos hle]
    omega
  | kick => exact Buffer.putsOk_kick h ▸ Buffer.putsOk_nil q b kick
  | pktHas c => simp [Buffer.putsOk, putList, putTail] at h
  | pktGetc c => simp [Buffer.putsOk, putList, putTail] at h
  | drain => simp [Buffer.putsOk, putList, putTail] at h

/-- A producer with something pending on the buffer has it pending where `INIT` looks (40_ringstore.md R113). -/
theorem Buffer.putsOk_not_pendingOn {l : Lane} (h : q.putsOk .tx kick l.todo) (hn : l.pendingOn .tx = false) :
    l.todo = [] := by
  obtain ⟨hl, -, -⟩ := h
  unfold Lane.pendingOn at hn
  cases hm : l.todo with
  | nil => rfl
  | cons m rest =>
    rw [hm] at hl hn
    cases m <;> simp_all [putList, putTail, Micro.target]

end Puts

end Sys2Proof.Machine

/-! ## Every instruction keeps the invariant -/

namespace Sys2Proof.Machine

open Sys2Proof.Config

section Rules

variable {s : State} {b : BufSel} {side : Side} {body : Result}

theorem State.Inv.command (h : s.Inv) (hb : s.ready side b → Post State.Inv body) :
    Post State.Inv (s.command side b body) :=
  Post.command (fun _ => State.inv_refuse.2 h) hb

theorem State.Inv.commandAnytime (h : s.Inv) (hb : s.accepts side b → Post State.Inv body) :
    Post State.Inv (s.commandAnytime side b body) :=
  Post.commandAnytime (fun _ => State.inv_refuse.2 h) hb

theorem State.Inv.guard (h : s.Inv) {c : Prop} [Decidable c] {st : Status} (hb : ¬ c → Post State.Inv body) :
    Post State.Inv (if c then .next (s.refuse st) else body) :=
  Post.guard (State.inv_refuse.2 h) hb

/-- A query answers, and changes nothing else (20_memory.md R67). -/
theorem State.Inv.query (h : s.Inv) (kind : Kind) (m n : Nat) :
    Post State.Inv (s.command side b (.next (s.ret kind m n))) :=
  h.command fun _ => post_next.2 (State.inv_ret.2 h)

end Rules

/-! ### The put side

A put-side command finds its agent idle, so that `TX` has no other pending put. -/

section PutSide

variable {s : State} {b : BufSel}

/-- `TX` is changed while its producer has nothing pending. -/
theorem State.Inv.setBuf_tx_idle (h : s.Inv) {q : Buffer} (hidle : (s.lane (producer s.par.kind)).todo = [])
    (hq : q.ok s.par.tx s.par.minCap) : (s.setBuf .tx q).Inv :=
  h.setBuf_tx hq (hidle ▸ Buffer.putsOk_nil _ _ _)

/-- The producer's entry check has found the space for the micro-steps (20_memory.md R60, R61). -/
theorem State.Inv.begin_puts (h : s.Inv) {ms : List Micro} (ha : s.actor = producer s.par.kind) (hf : s.fault = false)
    (hp : s.tx.putsOk .tx (s.par.kind == .portEngine) ms) (r : Option Response) : (s.begin ms r).Inv :=
  State.inv_begin.2 (ha ▸ h.setTodo_producer hf hp)

/-- One byte is put while the producer has nothing else to do. -/
theorem State.Inv.withPut_ret (h : s.Inv) (hidle : (s.lane s.actor).todo = []) (hr : s.ready .put b)
    (hs : (s.buf b).shv = false) (v : Byte) :
    Post State.Inv (s.withPut b v fun t => .next (t.ret .none 1 0)) := by
  obtain ⟨rfl, ha, -⟩ := State.ready_put hr
  exact Post.withPut <| post_next.2 <| State.inv_ret.2 <|
    h.setBuf_tx_idle (ha ▸ hidle) (Buffer.ok_put (h.buf_ok .tx) hr.2 hs v)

/-- The bytes of a symbol, no transaction being open (43_codec.md R185). -/
theorem State.Inv.storeAll (h : s.Inv) (hidle : (s.lane s.actor).todo = []) (hr : s.ready .put b)
    (hs : (s.buf b).shv = false) (bs : List Byte) : Post State.Inv (s.storeAll b bs) := by
  obtain ⟨rfl, ha, hf⟩ := State.ready_put hr
  refine Post.storeAll (h.refuseNoSpace _) (fun x _ _ => ?_) (fun hroom _ r => ?_)
  · exact State.inv_ret.2 (h.setBuf_tx_idle (ha ▸ hidle) (Buffer.ok_put (h.buf_ok .tx) hr.2 hs x))
  · exact h.begin_puts ha hf (Buffer.putsOk_putSteps hroom hr.2 hs) r

variable (h : s.Inv) (hidle : (s.lane s.actor).todo = [])

include h hidle

theorem execPutb_inv (v : Byte) : Post State.Inv (execPutb b v s) := by
  refine h.command fun hr => h.guard fun hs => ?_
  split
  · exact post_next.2 (h.refuseNoSpace b)
  · exact h.withPut_ret hidle hr (by simpa using hs) v

theorem execPutbu_inv (v : Byte) : Post State.Inv (execPutbu b v s) := by
  refine h.command fun hr => h.guard fun hs => ?_
  split
  · exact post_next.2 (State.inv_refuse.2 h.latchFault)
  · exact h.withPut_ret hidle hr (by simpa using hs) v

theorem execShBegin_inv : Post State.Inv (execShBegin b s) := by
  refine h.command fun hr => post_next.2 (State.inv_ret.2 ?_)
  obtain ⟨rfl, ha, -⟩ := State.ready_put hr
  exact h.setBuf_tx_idle (ha ▸ hidle) (Buffer.ok_shBegin (h.buf_ok .tx) hr.2)

theorem execShWrite_inv (v : Byte) : Post State.Inv (execShWrite b v s) := by
  refine h.command fun hr => h.guard fun hs => ?_
  obtain ⟨rfl, ha, -⟩ := State.ready_put hr
  split
  · exact post_next.2 (h.refuseNoSpace _)
  · rename_i hne
    exact Post.withWrite fun _ => post_next.2 <| State.inv_ret.2 <|
      h.setBuf_tx_idle (ha ▸ hidle) (Buffer.ok_shWrite (h.buf_ok .tx) hr.2 (by simpa using hs) hne v)

theorem execShCommit_inv : Post State.Inv (execShCommit b s) := by
  refine h.command fun hr => h.guard fun hs => post_next.2 (State.inv_ret.2 ?_)
  obtain ⟨rfl, ha, -⟩ := State.ready_put hr
  exact h.setBuf_tx_idle (ha ▸ hidle) (Buffer.ok_shCommit (h.buf_ok .tx) hr.2 (by simpa using hs))

theorem execEncData_inv (v : Byte) : Post State.Inv (execEncData b v s) :=
  h.command fun hr => h.guard fun hs => h.storeAll hidle hr (by simpa using hs) _

theorem execEncCtrl_inv (c : Byte) : Post State.Inv (execEncCtrl b c s) :=
  h.command fun hr => h.guard fun _ => h.guard fun hs => h.guard fun _ => h.storeAll hidle hr (by simpa using hs) _

theorem execEncQuote_inv : Post State.Inv (execEncQuote b s) :=
  h.command fun hr => h.guard fun _ => h.guard fun hs => h.storeAll hidle hr (by simpa using hs) _

theorem execEncLit_inv (v : Byte) : Post State.Inv (execEncLit b v s) :=
  h.command fun hr => h.guard fun _ => h.guard fun hs => h.storeAll hidle hr (by simpa using hs) _

omit hidle

theorem execPktPut_inv (payload : List Byte) : Post State.Inv (execPktPut b payload s) := by
  refine h.command fun hr => h.guard fun _ => h.guard fun hs => h.guard fun _ => ?_
  obtain ⟨rfl, ha, hf⟩ := State.ready_put hr
  obtain ⟨hp, hg⟩ := h.offsets hr.2
  split
  · exact post_next.2 (h.refuseNoSpace _)
  · rename_i hplace
    exact post_next.2 (h.begin_puts ha hf (Buffer.putsOk_packetSteps hp hg (by simpa using hs) hplace) _)

end PutSide

/-! ### The get side -/

section GetSide

variable {s : State} {b : BufSel}

/-- Bytes are consumed by one write of `get` (20_memory.md R62). -/
theorem State.Inv.setGet_take (h : s.Inv) (hc : (s.buf b).cap ≠ 0) {n : Nat} (hn : n ≤ (s.buf b).count) :
    (s.setGet b ((s.buf b).add (s.buf b).get.toNat n)).Inv :=
  h.setBuf_of_eases (Buffer.eases_take (h.buf_ok b) hc hn)

theorem Buffer.count_pos {q : Buffer} (hg : q.get.toNat < q.cap.toNat) (he : q.isEmpty = false) : 1 ≤ q.count := by
  have hne : q.put.toNat ≠ q.get.toNat := fun heq => by simp [q.isEmpty_iff.2 heq] at he
  unfold Buffer.count
  split <;> omega

@[simp] theorem State.draws_buf (s : State) (d : Nat) (b : BufSel) : State.buf { s with draws := d } b = s.buf b := by
  cases b <;> rfl

/-- A filler is removed, and the consumer's check goes on (42_framing.md R165). -/
theorem State.Inv.removeFiller (h : s.Inv) (hf : s.fault = false) (ha : s.actor = consumer s.par.kind)
    (hlt : (s.buf b).put.toNat < (s.buf b).get.toNat) {m : Micro} (hm : getList (consumed s.par.kind) [m] = true) :
    ((s.setGet b 0).begin [m] none).Inv := by
  have hs : (s.setGet b 0).Inv := h.setBuf_of_eases (Buffer.eases_unfill (h.buf_ok b) hlt)
  have htodo := hs.setTodo_consumer (ms := [m]) (by simpa using hf) (by simpa using hm)
  exact State.inv_begin.2 (by simpa [ha] using htodo)

/-- What a decode consumes is held (43_codec.md R189, R191). -/
theorem State.Inv.decodeWith (h : s.Inv) (hc : (s.buf b).cap ≠ 0) {dec : Nat → Byte → Byte → Except Status Symbol}
    (hsize : ∀ {c b0 b1 y}, c ≠ 0 → dec c b0 b1 = .ok y → y.size ≤ c) :
    Post State.Inv (s.decodeWith b dec State.peekSymbol) ∧ Post State.Inv (s.decodeWith b dec (State.getSymbol b)) := by
  have hrefuse : ∀ st d, (State.refuse st { s with draws := d }).Inv := fun _ _ => State.inv_refuse.2 (State.inv_draws.2 h)
  refine ⟨Post.decodeWith hrefuse fun _ _ y d _ _ => ?_, Post.decodeWith hrefuse fun _ _ y d hn hy => ?_⟩
  · exact post_next.2 (State.inv_ret.2 (State.inv_draws.2 h))
  · have hd : State.Inv { s with draws := d } := State.inv_draws.2 h
    exact post_next.2 <| State.inv_ret.2 <| hd.setGet_take (by simpa using hc) (by simpa using hsize hn hy)

theorem decodeHex_size {quote : Byte} {c : Nat} {b0 b1 : Byte} {y : Symbol} (hc : c ≠ 0)
    (h : decodeHex quote c b0 b1 = .ok y) : y.size ≤ c := by
  unfold decodeHex at h
  repeat' split at h
  all_goals cases h
  all_goals simp only; omega

/-- A symbol stands for held bytes only (43_codec.md R189). -/
theorem Format.decodeNormal_size {f : Format} {esc quote : Byte} {c : Nat} {b0 b1 : Byte} {y : Symbol} (hc : c ≠ 0)
    (h : f.decodeNormal esc quote c b0 b1 = .ok y) : y.size ≤ c := by
  have hpair : ∀ {z : Symbol}, (if c < 2 then Except.error Status.nodata
      else if b1 = esc then .ok ⟨.data, esc, 2⟩ else .ok ⟨.ctrl, b1, 2⟩) = .ok z → z.size ≤ c := by
    intro z hz
    repeat' split at hz
    all_goals cases hz
    all_goals simp only; omega
  have hone : ∀ {z : Symbol}, (Except.ok ⟨.data, b0, 1⟩ : Except Status Symbol) = .ok z → z.size ≤ c := by
    rintro _ ⟨⟩
    simp only
    omega
  cases f with
  | none => exact hone h
  | binary => exact hone h
  | binaryEscaped =>
    simp only [Format.decodeNormal] at h
    split at h
    · exact hpair h
    · exact hone h
  | ascii => exact decodeHex_size hc h
  | asciiEscaped =>
    simp only [Format.decodeNormal] at h
    split at h
    · exact hpair h
    · exact decodeHex_size hc h

theorem decodeLiteral_size {quote : Byte} {c : Nat} {b0 b1 : Byte} {y : Symbol} (hc : c ≠ 0)
    (h : decodeLiteral quote c b0 b1 = .ok y) : y.size ≤ c := by
  unfold decodeLiteral at h
  repeat' split at h
  all_goals cases h
  all_goals simp only; omega

variable (h : s.Inv)

include h

/-- A read and an answer. -/
theorem State.Inv.withByte_ret {off : Nat} :
    Post State.Inv (s.withByte b off fun v t => .next (t.ret .none v.toNat 0)) :=
  Post.withByte fun _ _ _ => post_next.2 (State.inv_ret.2 (State.inv_draws.2 h))

theorem execGetb_inv : Post State.Inv (execGetb b s) := by
  refine h.command fun hr => h.guard fun he => Post.withByte fun v d _ => post_next.2 (State.inv_ret.2 ?_)
  have hd : State.Inv { s with draws := d } := State.inv_draws.2 h
  have hcount : 1 ≤ (s.buf b).count := Buffer.count_pos (h.offsets hr.2).2 (by simpa using he)
  exact hd.setGet_take (n := 1) (by simpa using hr.2) (by simpa using hcount)

theorem State.Inv.peekAt (k : Nat) : Post State.Inv (s.peekAt b k) :=
  h.guard fun _ => h.withByte_ret

theorem execRemove_inv (n : Half) : Post State.Inv (execRemove b n s) :=
  h.command fun hr => h.guard fun hn => post_next.2 (State.inv_ret.2 (h.setGet_take hr.2 (Nat.not_lt.1 hn)))

theorem execDrd_inv (off : Half) : Post State.Inv (execDrd b off s) :=
  h.command fun _ => h.guard fun _ => h.withByte_ret

theorem State.Inv.pktHasRound (hf : s.fault = false) (ha : s.actor = consumer s.par.kind)
    (hb : b = consumed s.par.kind) : Post State.Inv (s.pktHasRound b) := by
  refine Post.scanPacket fun r d hlt => ?_
  have hd : State.Inv { s with draws := d } := State.inv_draws.2 h
  cases r with
  | filler => exact post_next.2 (hd.removeFiller hf ha (by simpa using hlt rfl) (by simp [getList, hb]))
  | size n => exact post_next.2 (State.inv_ret.2 hd)
  | malformed => exact post_next.2 (State.inv_refuse.2 hd)
  | zerolen => exact post_next.2 (State.inv_raise.2 hd)

theorem State.Inv.pktGetcRound (hf : s.fault = false) (ha : s.actor = consumer s.par.kind)
    (hb : b = consumed s.par.kind) : Post State.Inv (s.pktGetcRound b) := by
  refine Post.scanPacket fun r d hlt => ?_
  have hd : State.Inv { s with draws := d } := State.inv_draws.2 h
  cases r with
  | filler => exact post_next.2 (hd.removeFiller hf ha (by simpa using hlt rfl) (by simp [getList, hb]))
  | size n => exact hd.guard fun _ => post_next.2 (State.inv_ret.2 hd)
  | malformed => exact post_next.2 (State.inv_refuse.2 hd)
  | zerolen => exact post_next.2 (State.inv_raise.2 hd)

theorem execPktHas_inv : Post State.Inv (execPktHas b s) := by
  refine h.command fun hr => h.guard fun _ => ?_
  obtain ⟨hb, ha, hf⟩ := State.ready_get hr
  exact h.pktHasRound hf ha hb

theorem execPktGetc_inv : Post State.Inv (execPktGetc b s) := by
  refine h.command fun hr => h.guard fun _ => ?_
  obtain ⟨hb, ha, hf⟩ := State.ready_get hr
  exact h.pktGetcRound hf ha hb

theorem State.Inv.decodeNormal (hc : (s.buf b).cap ≠ 0) :
    Post State.Inv (s.decodeNormal b State.peekSymbol) ∧ Post State.Inv (s.decodeNormal b (State.getSymbol b)) :=
  h.decodeWith hc Format.decodeNormal_size

theorem State.Inv.decodeLiteral (hc : (s.buf b).cap ≠ 0) :
    Post State.Inv (s.decodeLiteral b State.peekSymbol) ∧ Post State.Inv (s.decodeLiteral b (State.getSymbol b)) :=
  ⟨h.guard fun _ => (h.decodeWith hc decodeLiteral_size).1, h.guard fun _ => (h.decodeWith hc decodeLiteral_size).2⟩

end GetSide

/-! ### Configuration -/

section Configuration

variable {s : State} {b : BufSel}

/-- `INIT` takes effect only where nothing is pending on the buffer (40_ringstore.md R113). -/
theorem State.Inv.producer_idle (h : s.Inv) (hidle : (s.lane s.actor).todo = []) (ha : s.accepts .either .tx)
    (hn : s.pendingElsewhere .tx = false) : (s.lane (producer s.par.kind)).todo = [] := by
  obtain ⟨-, -, -, hl, -⟩ := h
  obtain ⟨-, -, hport⟩ := ha
  unfold State.lanesOk at hl
  cases hk : s.par.kind with
  | bufferEngine =>
    simp only [hk] at hl
    obtain ⟨-, -, hp, -⟩ := hl
    by_cases hactor : s.actor = .p
    · rwa [hactor] at hidle
    · have hpend : s.laneP.pendingOn .tx = false := by
        simpa [State.pendingElsewhere, Ne.symm hactor] using (List.any_eq_false.1 hn) .p (by simp)
      exact Buffer.putsOk_not_pendingOn hp hpend
  | portEngine =>
    have hactor : s.actor = .h := by
      rw [hk] at hport
      revert hport
      cases s.actor <;> simp [portAccepts]
    rwa [hactor] at hidle

theorem execInit_inv (h : s.Inv) (hidle : (s.lane s.actor).todo = []) (cap : Half) (typ : BitVec 2) (fmt : BitVec 3) :
    Post State.Inv (execInit b cap typ fmt s) := by
  refine h.commandAnytime fun ha => ?_
  split
  · rename_i t f _ _
    refine h.guard fun hcap => h.guard fun hn => post_next.2 (State.inv_ret.2 ?_)
    simp only [State.capAllowed, Bool.not_eq_true', decide_eq_false_iff_not, not_not] at hcap
    obtain ⟨h0, hmin, hmax⟩ := hcap
    have hok := Buffer.ok_configured (h.buf_ok b) (fun hc => h0 (by simp [hc])) hmin hmax t f
    cases b with
    | tx => exact h.setBuf_tx_idle (h.producer_idle hidle ha (by simpa using hn)) hok
    | rx => exact h.setBuf_rx hok fun _ => rfl
  · exact post_next.2 (State.inv_refuse.2 h)

theorem execClrerr_inv (h : s.Inv) : Post State.Inv (execClrerr b s) :=
  h.command fun _ => post_next.2 (State.inv_ret.2 (h.setBuf_of_eases (Buffer.eases_err false)))

end Configuration

/-! ### The port -/

section Port

variable {s : State} (h : s.Inv)

include h

/-- A byte is pulled from `TX` where it is not empty (44_portdriver.md R213, R215). -/
theorem State.Inv.withPulledByte (he : s.tx.isEmpty = false) {k : State → Result}
    (hk : ∀ t, t.Inv → Post State.Inv (k t)) : Post State.Inv (s.withPulledByte k) := by
  refine Post.withByte fun v d hlt => hk _ (State.inv_per.2 ?_)
  have hc : s.tx.cap ≠ 0 := fun hc => by simp [hc] at hlt
  have hd : State.Inv { s with draws := d } := State.inv_draws.2 h
  exact hd.setGet_take (b := .tx) (n := 1) hc (Buffer.count_pos (h.offsets (b := .tx) hc).2 he)

theorem State.Inv.withKick (he : s.tx.isEmpty = false) {k : State → Result} (hk : ∀ t, t.Inv → Post State.Inv (k t)) :
    Post State.Inv (s.withKick k) := by
  have ht : State.Inv { s with pstate := .transmitting, deadline := s.armed } :=
    (State.inv_deadline.2 h).setPstate nofun
  unfold State.withKick
  dsimp only
  split
  · exact ht.withPulledByte he hk
  · exact hk _ ht

theorem State.Inv.withIdleKick {k : State → Result} (hk : ∀ t, t.Inv → Post State.Inv (k t)) :
    Post State.Inv (s.withIdleKick k) := by
  unfold State.withIdleKick
  split
  · rename_i hidle
    exact h.withKick hidle.2 hk
  · exact hk s h

theorem State.Inv.timeout : s.timeout.Inv := by
  have hflush : (s.setBuf .tx { s.tx with get := s.tx.put }).Inv := h.setBuf_of_eases (Buffer.eases_flush (h.buf_ok .tx))
  exact State.inv_toErr.2 (hflush.setPstate (p := .idle) nofun)

theorem execEvTask_inv : Post State.Inv (execEvTask s) := by
  unfold execEvTask
  split
  · exact post_next.2 h
  split
  · split
    · rename_i hne
      exact h.withKick hne.2 fun t ht => post_next.2 ht
    · exact post_next.2 h
  split
  · exact post_next.2 h.timeout
  · exact post_next.2 h

theorem execEvTxirq_inv : Post State.Inv (execEvTxirq s) := by
  unfold execEvTxirq
  split
  · exact post_next.2 h
  split
  · split
    · exact post_next.2 (h.setPstate nofun)
    · rename_i he
      exact h.withPulledByte (by simpa using he) fun t ht => post_next.2 (State.inv_deadline.2 ht)
  · exact post_next.2 h

theorem execEvRxirq_inv (hk : s.par.kind = .portEngine) : Post State.Inv (execEvRxirq s) := by
  unfold execEvRxirq
  split
  · exact post_next.2 h
  · rename_i hf
    have hc : s.clearErrorFlags.Inv := State.inv_per.2 h
    exact post_next.2 (hc.setTodo_irq (.inr ⟨Bool.eq_false_iff.2 hf, hk, rfl⟩))

/-- One iteration of the receive drain (44_portdriver.md R216). -/
theorem State.Inv.drainByte (hk : s.par.kind = .portEngine) : Post State.Inv s.drainByte := by
  unfold State.drainByte
  split
  · exact post_next.2 h
  · rename_i rest _
    have ht : State.Inv { s with per := { s.per with rxq := rest } } := State.inv_per.2 h
    dsimp only
    split
    · exact post_next.2 (ht.setBuf_of_eases (b := .rx) (Buffer.eases_err true))
    · rename_i hc
      have hshv := ht.rx_shv hk
      refine Post.withPut (post_next.2 (ht.setBuf_rx ?_ fun _ => hshv))
      exact Buffer.ok_put (ht.buf_ok .rx) (fun h0 => hc (.inl h0)) hshv _

theorem execPdWriteb_inv (v : Byte) : Post State.Inv (execPdWriteb v s) := by
  refine h.command fun hr => h.guard fun _ => h.guard fun hs => ?_
  obtain ⟨hk, ha, hf⟩ := State.ready_host hr
  split
  · exact post_next.2 (h.refuseNoSpace _)
  · rename_i hroom
    have hp := Buffer.putsOk_putSteps_kick (q := s.tx) (b := .tx) (Nat.not_lt.1 hroom) hr.2 (by simpa using hs)
    exact post_next.2 (h.begin_puts (by rw [ha, hk, producer]) hf (by rw [hk]; exact hp) _)

theorem execPdClrerr_inv : Post State.Inv (execPdClrerr s) := by
  refine h.commandAnytime fun _ => post_next.2 (State.inv_ret.2 ?_)
  have ht : State.Inv { s with toErr := false } := State.inv_toErr.2 h
  exact ht.setBuf_of_eases (b := .tx) (Buffer.eases_err false)

end Port

/-- An instruction, run by an agent that has nothing pending; an event, by a PortEngine. -/
theorem exec_inv {s : State} (h : s.Inv) (hidle : (s.lane s.actor).todo = []) (i : Instr)
    (hev : sideOf i = .event → s.par.kind = .portEngine) : Post State.Inv (exec i s) := by
  cases i with
  | init b cap typ fmt => exact execInit_inv h hidle cap typ fmt
  | isempty b => exact h.query _ _ _
  | isfull b => exact h.query _ _ _
  | count b => exact h.query _ _ _
  | free b => exact h.query _ _ _
  | putb b v => exact execPutb_inv h hidle v
  | putbu b v => exact execPutbu_inv h hidle v
  | getb b => exact execGetb_inv h
  | peekb b => exact h.command fun _ => h.peekAt 0
  | peekat b k => exact h.command fun _ => h.peekAt k.toNat
  | remove b n => exact execRemove_inv h n
  | rspan b => exact h.query _ _ _
  | wspan b => exact h.query _ _ _
  | geterr b => exact h.query _ _ _
  | clrerr b => exact execClrerr_inv h
  | drd b off => exact execDrd_inv h off
  | shBegin b => exact execShBegin_inv h hidle
  | shWrite b v => exact execShWrite_inv h hidle v
  | shCommit b => exact execShCommit_inv h hidle
  | pktPut b payload => exact execPktPut_inv h payload
  | pktHas b => exact execPktHas_inv h
  | pktGetc b => exact execPktGetc_inv h
  | encData b v => exact execEncData_inv h hidle v
  | encCtrl b c => exact execEncCtrl_inv h hidle c
  | encQuote b => exact execEncQuote_inv h hidle
  | encLit b v => exact execEncLit_inv h hidle v
  | decPeek b => exact h.command fun hr => (h.decodeNormal hr.2).1
  | decGet b => exact h.command fun hr => (h.decodeNormal hr.2).2
  | decPeekl b => exact h.command fun hr => (h.decodeLiteral hr.2).1
  | decGetl b => exact h.command fun hr => (h.decodeLiteral hr.2).2
  | pdWriteb v => exact execPdWriteb_inv h v
  | pdIsbusy => exact h.query _ _ _
  | pdStatus => exact h.commandAnytime fun _ => post_next.2 (State.inv_ret.2 h)
  | pdClrerr => exact execPdClrerr_inv h
  | evRxirq => exact execEvRxirq_inv h (hev rfl)
  | evTxirq => exact execEvTxirq_inv h
  | evTask => exact execEvTask_inv h

end Sys2Proof.Machine

/-! ## Every step keeps the invariant -/

namespace Sys2Proof.Machine

open Sys2Proof.Config

/-! ### Micro-steps -/

section Micro

variable {s : State} {a : Agent} {m : Micro} {ms : List Micro}

/-- The agent takes a micro-step: `ms` is what stays pending. -/
def State.take (s : State) (a : Agent) (ms : List Micro) : State := { s.setTodo a ms with actor := a }

@[simp] theorem State.take_par : (s.take a ms).par = s.par := by cases a <;> rfl
@[simp] theorem State.take_tx : (s.take a ms).tx = s.tx := by cases a <;> rfl
@[simp] theorem State.take_fault : (s.take a ms).fault = s.fault := by cases a <;> rfl
@[simp] theorem State.take_actor : (s.take a ms).actor = a := rfl
@[simp] theorem State.take_todo : ((s.take a ms).lane a).todo = ms := by cases a <;> rfl

/-- What `runMicro` does for an agent of an engine that is not faulted. -/
theorem runMicro_cons (hf : s.fault = false) (hm : (s.lane a).todo = m :: ms) :
    runMicro a s = (s.take a ms).microStep m := by
  unfold runMicro
  rw [hm]
  simp only [hf]
  rfl

/-- What stays pending keeps its space (20_memory.md R61). -/
theorem State.Inv.take (h : s.Inv) (hm : (s.lane a).todo = m :: ms) : (s.take a ms).Inv := by
  refine State.inv_actor.2 ?_
  obtain ⟨hf, ⟨rfl, hp⟩ | ⟨rfl, rfl, -⟩ | ⟨rfl, hk, -, rfl⟩⟩ := h.pending_cases hm
  · exact h.setTodo_producer hf (Buffer.putsOk_tail (fun hc => (h.offsets (b := .tx) hc).1) hp)
  · exact h.setTodo_consumer hf rfl
  · exact h.setTodo_irq (.inl rfl)

/-- A micro-step of the producer of `TX`, with `ms` behind it (20_memory.md R60, R61; 44_portdriver.md R217). -/
theorem State.Inv.microStep_put (h : s.Inv) (hms : (s.lane (producer s.par.kind)).todo = ms)
    (hp : s.tx.putsOk .tx (s.par.kind == .portEngine) (m :: ms)) : Post State.Inv (s.microStep m) := by
  cases m with
  | uput b v =>
    obtain ⟨rfl, -, -, hc, hs⟩ := Buffer.putsOk_uput hp
    obtain ⟨hput, hget⟩ := h.offsets (b := .tx) hc
    exact Post.withPut <| post_next.2 <| State.inv_settle.2 <|
      h.setBuf_tx (Buffer.ok_put (h.buf_ok .tx) hc hs v) (hms ▸ Buffer.putsOk_after_uput hput hget hp _)
  | fill b =>
    obtain ⟨rfl, -, -, -, hc, hs⟩ := Buffer.putsOk_fill hp
    exact Post.withFill <| post_next.2 <| State.inv_settle.2 <|
      h.setBuf_tx (Buffer.ok_fill (h.buf_ok .tx) hc hs _)
        (hms ▸ Buffer.putsOk_after_fill (h.offsets (b := .tx) hc).2 hp _)
  | kick => exact h.withIdleKick fun t ht => post_next.2 (State.inv_settle.2 ht)
  | pktHas b => simp [Buffer.putsOk, putList, putTail] at hp
  | pktGetc b => simp [Buffer.putsOk, putList, putTail] at hp
  | drain => simp [Buffer.putsOk, putList, putTail] at hp

/-- An iteration of the receive drain puts itself back on the list (44_portdriver.md R216). -/
theorem State.Inv.drainRound (h : s.Inv) (hf : s.fault = false) (hk : s.par.kind = .portEngine)
    (hi : s.laneI.todo = []) : Post State.Inv s.drainRound := by
  have hagain : (s.setTodo .irq (.drain :: s.laneI.todo)).Inv := h.setTodo_irq (.inr ⟨hf, hk, by rw [hi]⟩)
  exact hagain.drainByte hk

theorem runMicro_inv (h : s.Inv) (a : Agent) : Post State.Inv (runMicro a s) := by
  cases hm : (s.lane a).todo with
  | nil =>
    unfold runMicro
    rw [hm]
    exact post_next.2 h
  | cons m ms =>
    obtain ⟨hf, hcases⟩ := h.pending_cases hm
    rw [runMicro_cons hf hm]
    have ht := h.take hm
    obtain ⟨rfl, hp⟩ | ⟨rfl, rfl, hget⟩ | ⟨rfl, hk, rfl, rfl⟩ := hcases
    · exact ht.microStep_put (ms := ms) (by simp) (by simpa using hp)
    · obtain rfl | rfl := hget
      · exact ht.pktHasRound (by simpa using hf) (by simp) (by simp)
      · exact ht.pktGetcRound (by simpa using hf) (by simp) (by simp)
    · exact ht.drainRound (by simpa using hf) (by simpa using hk) rfl

end Micro

/-! ### Decoding -/

theorem eq_of_form {c : Prop} [Decidable c] {i j : Instr} {e : DecodeError}
    (h : (if c then Except.ok j else .error e) = .ok i) : i = j := by
  split at h <;> cases h
  rfl

/-- A command word is never read as an event (30_encoding.md R87, R91). -/
theorem decodeOp_not_event {w : Word} {beats : List Byte} {i : Instr} (h : decodeOp w beats = .ok i) :
    sideOf i ≠ .event := by
  unfold decodeOp at h
  split at h
  case h_35 => cases h
  all_goals
    obtain rfl := eq_of_form h
    exact nofun

theorem decode_cmd_not_event {w : Word} {beats : List Byte} {i : Instr} (h : decode (.cmd w beats) = .ok i) :
    sideOf i ≠ .event := by
  simp only [decode, decodeCommand] at h
  split at h
  · exact decodeOp_not_event h
  · cases h

/-! ### Scheduling -/

/-- What a plan owes the invariant: an operation is run by an agent that has nothing pending, an event by a PortEngine. -/
def Plan.Ok : Plan → Prop
  | .stop _ => True
  | .done t => t.Inv
  | .micro _ t => t.Inv
  | .run f t => t.Inv ∧ (t.lane t.actor).todo = [] ∧ ∀ v, f = .ev v → t.par.kind = .portEngine

section Schedule

variable {s : State}

theorem State.Inv.endDrain (h : s.Inv) : s.endDrain.Inv := by
  unfold State.endDrain
  split
  · exact h
  · exact h.setTodo_irq (.inl rfl)

@[simp] theorem State.endDrain_par (s : State) : s.endDrain.par = s.par := by
  unfold State.endDrain
  split <;> rfl

theorem State.Inv.planIdle_ok (h : s.Inv) : s.planIdle.Ok := by
  unfold State.planIdle
  repeat' split
  all_goals exact h

/-- The events are taken by agents of a PortEngine only (44_portdriver.md R225). -/
theorem kind_of_event_agent {k : EngineKind} {v : BitVec 3} {txFirst : Bool} {a : Agent}
    (ha : (Input.ev v txFirst).agent = some a) (hk : hasAgent k a = true) : k = .portEngine := by
  simp only [Input.agent] at ha
  cases k with
  | portEngine => rfl
  | bufferEngine =>
    split at ha
    · cases ha
    · split at ha <;> cases ha <;> cases hk

theorem State.Inv.planAgent_ok (h : s.Inv) {a : Agent} {i : Input} (hi : i.agent = some a)
    (ha : hasAgent s.par.kind a = true) (rest : List Input) : (s.planAgent a i rest).Ok := by
  have hrest : ∀ l, State.Inv { s with inputs := l } := fun l => State.inv_inputs.2 h
  unfold State.planAgent
  split
  · exact h
  split
  · split
    · exact hrest rest
    · exact h
  · rename_i hp
    have hidle : ∀ l, (State.lane { s with inputs := l, actor := a } a).todo = [] := by
      intro l
      cases a <;> simpa [State.pending] using hp
    split
    · split
      · exact ⟨(State.inv_actor (a := a)).2 (hrest rest), hidle rest, nofun⟩
      · trivial
    · exact ⟨(State.inv_actor (a := a)).2 (hrest _), hidle _, fun _ _ => kind_of_event_agent hi ha⟩
    · exact hrest _

end Schedule

/-! ### Reset and the environment -/

theorem Buffer.reset_ok (p : BufParams) (m : Nat) : Buffer.reset.ok p m := by
  have hcap : Buffer.reset.cap = 0 := rfl
  refine ⟨⟨fun h => absurd hcap h, fun _ => ⟨rfl, rfl, rfl⟩⟩, fun h => ?_, fun h => absurd hcap h, List.Pairwise.nil, ?_⟩
  · simp [Buffer.reset] at h
  · simp [Buffer.reset]

theorem resetWith_inv {par : Params} (hpar : par.ok = true) : (State.resetWith par).Inv := by
  refine ⟨hpar, Buffer.reset_ok _ _, Buffer.reset_ok _ _, ?_, fun h => ?_, fun h => ?_⟩
  · unfold State.lanesOk State.resetWith
    cases par.kind with
    | bufferEngine => exact ⟨rfl, rfl, Buffer.putsOk_nil _ _ _, rfl⟩
    | portEngine => exact ⟨rfl, rfl, .inl rfl, rfl, .inr rfl⟩
  · simp [State.resetWith] at h
  · simp [State.resetWith] at h

theorem State.Inv.engineReset {s : State} (h : s.Inv) : s.engineReset.Inv := by
  obtain ⟨hpar, -⟩ := h
  refine (resetWith_inv hpar).of_agrees ⟨rfl, rfl, rfl, rfl, rfl, fun a => ?_⟩
  cases a <;> rfl

theorem State.Inv.outside {s : State} (h : s.Inv) (i : Input) : (s.outside i).Inv := by
  cases i with
  | tick n => exact State.inv_now.2 h
  | reset => exact h.engineReset
  | cmd port w beats => exact State.inv_per.2 h
  | ev v txFirst => exact State.inv_per.2 h
  | go a => exact State.inv_per.2 h
  | rx v => exact State.inv_per.2 h
  | sent => exact State.inv_per.2 h
  | seterr f => exact State.inv_per.2 h
  | periph q => exact State.inv_per.2 h

theorem State.Inv.plan_ok {s : State} (h : s.Inv) : s.plan.Ok := by
  unfold State.plan
  split
  · trivial
  split
  · exact h.endDrain.planIdle_ok
  split
  · exact State.Inv.outside (State.inv_inputs.2 h) _
  · rename_i hi
    split
    · exact h.endDrain.planAgent_ok hi (by simpa using ‹_›) _
    · trivial

theorem State.Inv.illegalWord {s : State} (h : s.Inv) : s.illegalWord.Inv := by
  unfold State.illegalWord
  split
  · exact State.inv_refuse.2 h
  · exact State.inv_refuse.2 h

theorem step_inv {s : State} (h : s.Inv) : Post State.Inv (step s) := by
  have hplan := h.plan_ok
  unfold step
  cases hp : s.plan with
  | stop r => exact post_refused
  | done t =>
    rw [hp] at hplan
    exact post_next.2 hplan
  | micro a t =>
    rw [hp] at hplan
    exact runMicro_inv hplan a
  | run f t =>
    rw [hp] at hplan
    obtain ⟨ht, hidle, hev⟩ := hplan
    dsimp only
    split
    · rename_i i hi
      refine exec_inv ht hidle i fun hside => ?_
      cases f with
      | cmd w beats => exact absurd hside (decode_cmd_not_event hi)
      | ev v => exact hev v rfl
    · exact post_next.2 ht.illegalWord

/-- Settles O6. -/
theorem resetInvariant : Obligations.ResetInvariant := by
  unfold Obligations.ResetInvariant
  exact fun _ hpar => resetWith_inv hpar

/-- Settles O7: every plan starts from a state that meets the invariant, and every micro-step and every instruction keeps
it. -/
theorem stepKeepsInvariant : Obligations.StepKeepsInvariant := by
  unfold Obligations.StepKeepsInvariant
  exact fun _ t h ht => step_inv h t ht

end Sys2Proof.Machine

/-! ## The moves of the environment -/

namespace Sys2Proof.Machine

/-- A move of the environment takes one step, whatever is pending (20_memory.md R59). -/
theorem step_outside {s : State} {i : Input} {rest : List Input} (hpar : s.par.ok = true) (hin : s.inputs = i :: rest)
    (hi : i.agent = none) : step s = .next (State.outside { s with inputs := rest } i) := by
  simp [step, State.plan, hpar, hin, hi]

/-- The byte in the transmit register goes out (44_portdriver.md R226). -/
theorem outside_sent {s : State} {v : Byte} (h : s.per.txreg = some v) :
    s.outside .sent = { s with per := { s.per with txlog := s.per.txlog ++ [v], txreg := none } } := by
  have hmove : s.per.move .sent = { s.per with txlog := s.per.txlog ++ [v], txreg := none } := by
    simp only [Peripheral.move, h]
  exact congrArg (fun q => { s with per := q }) hmove

/-- Settles O13. -/
theorem environmentMoves : Obligations.EnvironmentMoves := by
  unfold Obligations.EnvironmentMoves
  intro s rest hpar
  refine ⟨fun n hin => ?_, fun v hin => ?_, fun v htx hin => ?_, fun f hin => ?_⟩
  · exact step_outside hpar hin rfl
  · exact step_outside hpar hin rfl
  · exact (step_outside hpar hin rfl).trans (congrArg _ (outside_sent htx))
  · exact step_outside hpar hin rfl

end Sys2Proof.Machine

/-! ## The frame of the put side -/

namespace Sys2Proof.Machine

/-- The offset at which a put-side operation can store a byte in the step of its entry check: `cur` for `SH_WRITE`, `put` for
those that put one byte at once, none for the others (41_shadow.md R152; 20_memory.md R60). -/
def State.storesAt (s : State) (b : BufSel) : Instr → Option Nat
  | .shWrite .. => some (s.buf b).cur.toNat
  | .shBegin _ => none
  | .shCommit _ => none
  | .pktPut .. => none
  | .encCtrl .. => none
  | _ => some (s.buf b).put.toNat

/-- What a put-side operation can change: its agent's lane; of its buffer neither the configuration nor `get`, and of the
storage no byte but the one at `off`. -/
def PutEffect (s : State) (b : BufSel) (off : Option Nat) (t : State) : Prop :=
  ∃ q l, t = (s.setBuf b q).setLane s.actor l ∧
    q.cap = (s.buf b).cap ∧ q.typ = (s.buf b).typ ∧ q.fmt = (s.buf b).fmt ∧ q.get = (s.buf b).get ∧
    ∀ x, some x ≠ off → Memory.read q.store x = Memory.read (s.buf b).store x

/-- What every put-side operation keeps, whether or not the fault latch sets. -/
def PutKeeps (s : State) (b : BufSel) (t : State) : Prop :=
  (t.buf b).cap = (s.buf b).cap ∧ (t.buf b).typ = (s.buf b).typ ∧ (t.buf b).fmt = (s.buf b).fmt ∧
    (t.buf b).get = (s.buf b).get ∧ (∀ c, c ≠ b → t.buf c = s.buf c) ∧ t.pstate = s.pstate ∧ t.deadline = s.deadline ∧
    t.toErr = s.toErr ∧ t.per = s.per ∧ t.now = s.now ∧ t.inputs = s.inputs ∧ t.par = s.par

section PutFrame

variable {s t : State} {b : BufSel} {off : Option Nat} {v : Byte}

theorem PutEffect.keeps (h : PutEffect s b off t) : PutKeeps s b t := by
  obtain ⟨q, l, rfl, hcap, htyp, hfmt, hget, -⟩ := h
  refine ⟨by simpa, by simpa, by simpa, by simpa, fun c hc => ?_, by simp, by simp, by simp, by simp, by simp, by simp,
    by simp⟩
  simp [State.buf_setBuf_of_ne _ _ hc]

theorem PutEffect.fault_lanes (h : PutEffect s b off t) :
    t.fault = s.fault ∧ ∀ a, a ≠ s.actor → t.lane a = s.lane a := by
  obtain ⟨q, l, rfl, -⟩ := h
  refine ⟨by simp, fun a ha => ?_⟩
  rw [State.lane_setLane_of_ne _ _ ha, State.setBuf_lane]

theorem PutEffect.read (h : PutEffect s b off t) {x : Nat} (hx : some x ≠ off) :
    Memory.read (t.buf b).store x = Memory.read (s.buf b).store x := by
  obtain ⟨q, l, rfl, -, -, -, -, hread⟩ := h
  simpa using hread x hx

@[simp] theorem State.setBuf_self (s : State) (b : BufSel) : s.setBuf b (s.buf b) = s := by
  cases b <;> rfl

theorem PutEffect.refuse (st : Status) : PutEffect s b off (s.refuse st) :=
  ⟨s.buf b, _, by rw [State.setBuf_self]; rfl, rfl, rfl, rfl, rfl, fun _ _ => rfl⟩

theorem PutEffect.begin (ms : List Micro) (r : Option Response) : PutEffect s b off (s.begin ms r) :=
  ⟨s.buf b, _, by rw [State.setBuf_self]; rfl, rfl, rfl, rfl, rfl, fun _ _ => rfl⟩

/-- An answer after a change of the buffer. -/
theorem PutEffect.setBuf_respond {q : Buffer} (r : Response) (hcap : q.cap = (s.buf b).cap)
    (htyp : q.typ = (s.buf b).typ) (hfmt : q.fmt = (s.buf b).fmt) (hget : q.get = (s.buf b).get)
    (hread : ∀ x, some x ≠ off → Memory.read q.store x = Memory.read (s.buf b).store x) :
    PutEffect s b off ((s.setBuf b q).respond r) :=
  ⟨q, { s.lane s.actor with out := some r }, by simp [State.respond], hcap, htyp, hfmt, hget, hread⟩

theorem PutEffect.refuseNoSpace : PutEffect s b off (s.refuseNoSpace b) :=
  PutEffect.setBuf_respond _ rfl rfl rfl rfl fun _ _ => rfl

/-- A byte is stored at `x`, and `put` and `cur` move. -/
theorem PutEffect.store {x : Nat} (p c : Half) (r : Response) :
    PutEffect s b (some x) ((s.setBuf b { s.buf b with
      store := Memory.write (s.buf b).store x v, put := p, cur := c }).respond r) :=
  PutEffect.setBuf_respond r rfl rfl rfl rfl fun _ hy => Memory.read_write_of_ne _ _ fun e => hy (congrArg some e)

theorem PutEffect.withPut :
    Post (PutEffect s b (some (s.buf b).put.toNat)) (s.withPut b v fun t => .next (t.ret .none 1 0)) :=
  Post.withPut (post_next.2 (PutEffect.store _ _ _))

theorem PutEffect.storeAll (bs : List Byte) : Post (PutEffect s b (some (s.buf b).put.toNat)) (s.storeAll b bs) :=
  Post.storeAll PutEffect.refuseNoSpace (fun _ _ _ => PutEffect.store _ _ _) fun _ _ _ => PutEffect.begin _ _

/-- Two bytes are stored by micro-steps only (20_memory.md R60). -/
theorem PutEffect.storeAll_pair (x y : Byte) : Post (PutEffect s b none) (s.storeAll b [x, y]) :=
  Post.storeAll PutEffect.refuseNoSpace (fun _ h => nomatch h) fun _ _ _ => PutEffect.begin _ _

theorem execPutb_effect : Post (PutEffect s b (some (s.buf b).put.toNat)) (execPutb b v s) := by
  refine Post.command PutEffect.refuse fun _ => Post.guard (PutEffect.refuse _) fun _ => ?_
  split
  · exact post_next.2 PutEffect.refuseNoSpace
  · exact PutEffect.withPut

/-- `PUTBU` has the effect of a put, or it sets the fault latch (40_ringstore.md R119). -/
theorem execPutbu_effect :
    Post (fun t => PutEffect s b (some (s.buf b).put.toNat) t ∨ t = s.latchFault.refuse .fault) (execPutbu b v s) := by
  refine Post.command (fun _ => .inl (PutEffect.refuse _)) fun _ => Post.guard (.inl (PutEffect.refuse _)) fun _ => ?_
  split
  · exact post_next.2 (.inr rfl)
  · exact PutEffect.withPut.mono fun _ => .inl

theorem execShBegin_effect : Post (PutEffect s b none) (execShBegin b s) :=
  Post.command PutEffect.refuse fun _ =>
    post_next.2 (PutEffect.setBuf_respond _ rfl rfl rfl rfl fun _ _ => rfl)

theorem execShWrite_effect :
    Post (fun t => PutEffect s b (some (s.buf b).cur.toNat) t ∧ (t.buf b).put = (s.buf b).put) (execShWrite b v s) := by
  have hrefuse : ∀ st, PutEffect s b (some (s.buf b).cur.toNat) (s.refuse st) ∧ ((s.refuse st).buf b).put = (s.buf b).put :=
    fun st => ⟨PutEffect.refuse st, by simp⟩
  refine Post.command hrefuse fun _ => Post.guard (hrefuse _) fun _ => ?_
  split
  · exact post_next.2 ⟨PutEffect.refuseNoSpace, by simp [State.refuseNoSpace]⟩
  · refine Post.withWrite fun _ => post_next.2 ⟨?_, by simp⟩
    have := PutEffect.store (s := s) (b := b) (v := v) (x := (s.buf b).cur.toNat) (s.buf b).put
      (half ((s.buf b).inc (s.buf b).cur.toNat)) { st := .ok, kind := .none, a := half 1, b := half 0 }
    cases b <;> exact this

theorem execShCommit_effect : Post (PutEffect s b none) (execShCommit b s) :=
  Post.command PutEffect.refuse fun _ => Post.guard (PutEffect.refuse _) fun _ =>
    post_next.2 (PutEffect.setBuf_respond _ rfl rfl rfl rfl fun _ _ => rfl)

theorem execPktPut_effect (payload : List Byte) : Post (PutEffect s b none) (execPktPut b payload s) := by
  refine Post.command PutEffect.refuse fun _ => Post.guard (PutEffect.refuse _) fun _ =>
    Post.guard (PutEffect.refuse _) fun _ => Post.guard (PutEffect.refuse _) fun _ => ?_
  split
  · exact post_next.2 PutEffect.refuseNoSpace
  · exact post_next.2 (PutEffect.begin _ _)

theorem execEncData_effect : Post (PutEffect s b (some (s.buf b).put.toNat)) (execEncData b v s) :=
  Post.command PutEffect.refuse fun _ => Post.guard (PutEffect.refuse _) fun _ => PutEffect.storeAll _

theorem execEncCtrl_effect : Post (PutEffect s b none) (execEncCtrl b v s) :=
  Post.command PutEffect.refuse fun _ => Post.guard (PutEffect.refuse _) fun _ =>
    Post.guard (PutEffect.refuse _) fun _ => Post.guard (PutEffect.refuse _) fun _ => PutEffect.storeAll_pair _ _

theorem execEncQuote_effect : Post (PutEffect s b (some (s.buf b).put.toNat)) (execEncQuote b s) :=
  Post.command PutEffect.refuse fun _ => Post.guard (PutEffect.refuse _) fun _ =>
    Post.guard (PutEffect.refuse _) fun _ => PutEffect.storeAll _

theorem execEncLit_effect : Post (PutEffect s b (some (s.buf b).put.toNat)) (execEncLit b v s) :=
  Post.command PutEffect.refuse fun _ => Post.guard (PutEffect.refuse _) fun _ =>
    Post.guard (PutEffect.refuse _) fun _ => PutEffect.storeAll _

/-- The put side, operation by operation. -/
theorem exec_put_effect {i : Instr} {payload : List Byte}
    (hi : i ∈ [.putb b v, .putbu b v, .shBegin b, .shWrite b v, .shCommit b, .pktPut b payload, .encData b v, .encCtrl b v,
      .encQuote b, .encLit b v]) :
    Post (fun t => PutEffect s b (s.storesAt b i) t ∨ i = .putbu b v ∧ t = s.latchFault.refuse .fault) (exec i s) := by
  simp only [List.mem_cons, List.not_mem_nil, or_false] at hi
  obtain rfl | rfl | rfl | rfl | rfl | rfl | rfl | rfl | rfl | rfl := hi
  · exact execPutb_effect.mono fun _ => .inl
  · exact execPutbu_effect.mono fun _ h => h.imp_right fun e => ⟨rfl, e⟩
  · exact execShBegin_effect.mono fun _ => .inl
  · exact execShWrite_effect.mono fun _ h => .inl h.1
  · exact execShCommit_effect.mono fun _ => .inl
  · exact (execPktPut_effect payload).mono fun _ => .inl
  · exact execEncData_effect.mono fun _ => .inl
  · exact execEncCtrl_effect.mono fun _ => .inl
  · exact execEncQuote_effect.mono fun _ => .inl
  · exact execEncLit_effect.mono fun _ => .inl

@[simp] theorem State.latchFault_buf (s : State) (b : BufSel) : s.latchFault.buf b = s.buf b := by cases b <;> rfl

theorem latchFault_keeps (s : State) (b : BufSel) : PutKeeps s b (s.latchFault.refuse .fault) := by
  refine ⟨by simp, by simp, by simp, by simp, fun c _ => by simp, ?_⟩
  simp [State.latchFault]

end PutFrame

/-- Settles O59. -/
theorem putFrame : Obligations.PutFrame := by
  unfold Obligations.PutFrame
  intro i b v payload s t hi ht
  have heffect := exec_put_effect hi t ht
  have hkeeps : PutKeeps s b t := by
    obtain h | ⟨-, rfl⟩ := heffect
    · exact h.keeps
    · exact latchFault_keeps s b
  have hread : ∀ off, s.storesAt b i ≠ some off → Memory.read (t.buf b).store off = Memory.read (s.buf b).store off := by
    intro off hoff
    obtain h | ⟨-, rfl⟩ := heffect
    · exact h.read hoff.symm
    · simp
  obtain ⟨hcap, htyp, hfmt, hget, hbuf, hpstate, hdeadline, htoErr, hper, hnow, hinputs, hpar⟩ := hkeeps
  refine ⟨hcap, htyp, hfmt, hget, hbuf, hpstate, hdeadline, htoErr, hper, hnow, hinputs, hpar, fun hne => ?_,
    fun hput off hoff => hread off ?_, ?_, fun hnone off => hread off ?_⟩
  · exact (heffect.resolve_right fun h => hne h.1).fault_lanes
  · have hat : s.storesAt b i = some (s.buf b).put.toNat := by
      simp only [List.mem_cons, List.not_mem_nil, or_false] at hput
      obtain rfl | rfl | rfl | rfl | rfl := hput <;> rfl
    rw [hat]
    exact fun e => hoff (Option.some.inj e).symm
  · rintro rfl
    exact ⟨fun off hoff => hread off fun e => hoff (Option.some.inj e).symm, (execShWrite_effect t ht).2⟩
  · simp only [List.mem_cons, List.not_mem_nil, or_false] at hnone
    obtain rfl | rfl | rfl | rfl := hnone <;> exact nofun

end Sys2Proof.Machine

/-! ## The frame of the configuration, the host operations and the events -/

namespace Sys2Proof.Machine

/-- What `INIT` leaves alone (70_reset_and_hazards.md R273). -/
def InitKeeps (s : State) (b : BufSel) (t : State) : Prop :=
  (∀ c, c ≠ b → t.buf c = s.buf c) ∧ (∀ off, Memory.read (t.buf b).store off = Memory.read (s.buf b).store off) ∧
    t.fault = s.fault ∧ t.pstate = s.pstate ∧ t.deadline = s.deadline ∧ t.toErr = s.toErr ∧ t.per = s.per ∧
    ∀ a, (t.lane a).todo = (s.lane a).todo

/-- What `EV_TXIRQ` and `EV_TASK` leave alone: of `TX` everything but `get` (44_portdriver.md R214, R215, R222). -/
def TransmitKeeps (s t : State) : Prop :=
  t.rx = s.rx ∧ (∀ a, t.lane a = s.lane a) ∧ t.fault = s.fault ∧ t.per.rxq = s.per.rxq ∧ t.per.txlog = s.per.txlog ∧
    t.now = s.now ∧ t.inputs = s.inputs ∧ ∃ g, t.tx = { s.tx with get := g }

section HostFrame

variable {P : State → Prop} {s : State} {b : BufSel}

theorem execInit_keeps (cap : Half) (typ : BitVec 2) (fmt : BitVec 3) :
    Post (InitKeeps s b) (execInit b cap typ fmt s) := by
  have hrefuse : ∀ st, InitKeeps s b (s.refuse st) := fun st => by simp [InitKeeps]
  refine Post.commandAnytime hrefuse fun _ => ?_
  split
  · refine Post.guard (hrefuse _) fun _ => Post.guard (hrefuse _) fun _ => post_next.2 ?_
    refine ⟨fun c hc => ?_, by simp [Buffer.configured], by simp, by simp, by simp, by simp, by simp, by simp⟩
    simp [State.buf_setBuf_of_ne _ _ hc]
  · exact post_next.2 (hrefuse _)

theorem execClrerr_keeps :
    Post (fun t => ∃ e r, t = State.respond r (s.setBuf b { s.buf b with err := e })) (execClrerr b s) :=
  Post.command (fun _ => ⟨(s.buf b).err, _, by rw [State.setBuf_self]; rfl⟩) fun _ => post_next.2 ⟨false, _, rfl⟩

theorem execPdClrerr_keeps :
    Post (fun t => ∃ e f r, t = State.respond r { s with toErr := f, tx := { s.tx with err := e } }) (execPdClrerr s) :=
  Post.commandAnytime (fun _ => ⟨s.tx.err, s.toErr, _, rfl⟩) fun _ => post_next.2 ⟨false, false, _, rfl⟩

theorem execPdWriteb_keeps (v : Byte) :
    Post (fun t => ∃ e l, t = ({ s with tx := { s.tx with err := e } }).setLane s.actor l) (execPdWriteb v s) := by
  have hrefuse : ∀ st, ∃ e l, s.refuse st = ({ s with tx := { s.tx with err := e } }).setLane s.actor l :=
    fun _ => ⟨s.tx.err, _, rfl⟩
  refine Post.command hrefuse fun _ => Post.guard (hrefuse _) fun _ => Post.guard (hrefuse _) fun _ => ?_
  split
  · exact post_next.2 ⟨true, _, rfl⟩
  · exact post_next.2 ⟨s.tx.err, _, rfl⟩

theorem execEvRxirq_keeps :
    Post (fun t => ∃ q l, t = { s with per := q, laneI := l } ∧ q.rxq = s.per.rxq ∧ q.txreg = s.per.txreg ∧
      q.txlog = s.per.txlog) (execEvRxirq s) := by
  unfold execEvRxirq
  split
  · exact post_next.2 ⟨s.per, s.laneI, rfl, rfl, rfl, rfl⟩
  · exact post_next.2 ⟨_, _, rfl, rfl, rfl, rfl⟩

/-- Pulling a byte from `TX` (44_portdriver.md R213). -/
theorem Post.withPulledByte {k : State → Result}
    (h : ∀ v g d, Post P (k { s with
      tx := { s.tx with get := g }, per := { s.per with txreg := some v }, draws := d })) : Post P (s.withPulledByte k) :=
  Post.withByte fun v d _ => h v _ d

theorem execEvTask_keeps : Post (TransmitKeeps s) (execEvTask s) := by
  have hrefl : TransmitKeeps s s := ⟨rfl, fun _ => rfl, rfl, rfl, rfl, rfl, rfl, s.tx.get, rfl⟩
  unfold execEvTask
  split
  · exact post_next.2 hrefl
  split
  · split
    · unfold State.withKick
      dsimp only
      split
      · exact Post.withPulledByte fun v g d =>
          post_next.2 ⟨rfl, fun a => by cases a <;> rfl, rfl, rfl, rfl, rfl, rfl, g, rfl⟩
      · exact post_next.2 ⟨rfl, fun a => by cases a <;> rfl, rfl, rfl, rfl, rfl, rfl, s.tx.get, rfl⟩
    · exact post_next.2 hrefl
  split
  · exact post_next.2 ⟨rfl, fun a => by cases a <;> rfl, rfl, rfl, rfl, rfl, rfl, s.tx.put, rfl⟩
  · exact post_next.2 hrefl

theorem execEvTxirq_keeps : Post (TransmitKeeps s) (execEvTxirq s) := by
  have hrefl : TransmitKeeps s s := ⟨rfl, fun _ => rfl, rfl, rfl, rfl, rfl, rfl, s.tx.get, rfl⟩
  unfold execEvTxirq
  split
  · exact post_next.2 hrefl
  split
  · split
    · exact post_next.2 ⟨rfl, fun a => by cases a <;> rfl, rfl, rfl, rfl, rfl, rfl, s.tx.get, rfl⟩
    · exact Post.withPulledByte fun v g d =>
        post_next.2 ⟨rfl, fun a => by cases a <;> rfl, rfl, rfl, rfl, rfl, rfl, g, rfl⟩
  · exact post_next.2 hrefl

end HostFrame

/-- Settles O60. -/
theorem hostFrame : Obligations.HostFrame := by
  unfold Obligations.HostFrame
  intro s t
  refine ⟨fun b cap typ fmt h => execInit_keeps cap typ fmt t h, fun b h => execClrerr_keeps t h,
    fun h => execPdClrerr_keeps t h, fun v h => execPdWriteb_keeps v t h, fun h => execEvRxirq_keeps t h, ?_⟩
  rintro (h | h)
  · exact execEvTxirq_keeps t h
  · exact execEvTask_keeps t h

end Sys2Proof.Machine

/-! ## The buffer as a queue -/

namespace Sys2Proof.Machine

section Queue

variable {q : Buffer}

@[simp] theorem Buffer.held_length (q : Buffer) : q.held.length = q.count := by
  simp [Buffer.held]

theorem Buffer.held_getElem? {k : Nat} (hk : k < q.count) :
    q.held[k]? = some (Memory.read q.store (q.add q.get.toNat k)) := by
  simp [Buffer.held, hk]

/-- The held bytes end where `put` stands (10_state.md R25). -/
theorem Buffer.add_count (hp : q.put.toNat < q.cap.toNat) (hg : q.get.toNat < q.cap.toNat) :
    q.add q.get.toNat q.count = q.put.toNat := by
  have hle : q.count ≤ q.cap.toNat := by
    unfold Buffer.count
    split <;> omega
  rw [Buffer.add_eq hg hle]
  unfold Buffer.count
  split <;> split <;> omega

/-- A put appends (40_ringstore.md R118, R129). -/
theorem Buffer.held_put (hp : q.put.toNat < q.cap.toNat) (hg : q.get.toNat < q.cap.toNat) (hfull : q.isFull = false)
    (v : Byte) :
    Buffer.held { q with store := Memory.write q.store q.put.toNat v, put := half (q.inc q.put.toNat) } =
      q.held ++ [some v] := by
  obtain ⟨hcount, -⟩ := Buffer.put_counts hp hg hfull (Memory.write q.store q.put.toNat v)
  have hold : ∀ k < q.count, Memory.read (Memory.write q.store q.put.toNat v) (q.add q.get.toNat k) =
      Memory.read q.store (q.add q.get.toNat k) := fun k hk =>
    Memory.read_write_of_ne _ _ fun e => Buffer.put_not_held hp hg ⟨k, hk, e.symm⟩
  unfold Buffer.held
  rw [hcount, List.range_succ, List.map_append]
  congr 1
  · exact List.map_congr_left fun k hk => hold k (List.mem_range.1 hk)
  · have hend : Memory.read (Memory.write q.store q.put.toNat v) (q.add q.get.toNat q.count) = some v := by
      rw [Buffer.add_count hp hg, Memory.read_write_self]
    exact congrArg (fun x => [x]) hend

/-- Taking `n` bytes drops the oldest `n` (40_ringstore.md R120, R123). -/
theorem Buffer.held_take (hp : q.put.toNat < q.cap.toNat) (hg : q.get.toNat < q.cap.toNat) {n : Nat} (hn : n ≤ q.count) :
    Buffer.held { q with get := half (q.add q.get.toNat n) } = q.held.drop n := by
  obtain ⟨-, hcount, -⟩ := Buffer.take_props hp hg hn
  have hget := Buffer.half_add (q := q) (x := q.get.toNat) (n := n) (by omega)
  apply List.ext_getElem?
  intro k
  by_cases hk : n + k < q.count
  · have hadd : Buffer.add { q with get := half (q.add q.get.toNat n) } (half (q.add q.get.toNat n)).toNat k =
        q.add q.get.toNat (n + k) := by
      rw [hget]
      simp only [Buffer.add, Nat.mod_add_mod, Nat.add_assoc]
    rw [List.getElem?_drop, Buffer.held_getElem? hk, Buffer.held_getElem? (by omega), hadd]
  · rw [List.getElem?_eq_none (by rw [Buffer.held_length]; omega),
      List.getElem?_eq_none (by rw [List.length_drop, Buffer.held_length]; omega)]

/-- The byte held at distance `k` (40_ringstore.md R122). -/
theorem Buffer.held_read {k : Nat} {v : Byte} (h : q.held[k]? = some (some v)) :
    k < q.count ∧ Memory.read q.store (q.add q.get.toNat k) = some v := by
  have hk : k < q.count := by
    obtain ⟨hk, -⟩ := List.getElem?_eq_some_iff.1 h
    simpa using hk
  rw [Buffer.held_getElem? hk] at h
  exact ⟨hk, Option.some.inj h⟩

end Queue

section QueueOperations

variable {s : State} {b : BufSel}

theorem execPutb_appends (ho : (s.buf b).offsetsOk) (v : Byte) (hr : s.ready .put b) (hs : (s.buf b).shv = false)
    (hfull : (s.buf b).isFull = false) :
    ∃ t, execPutb b v s = .next t ∧ (t.buf b).held = (s.buf b).held ++ [some v] := by
  obtain ⟨hp, hg⟩ := ho.1 hr.2
  unfold execPutb
  rw [State.command_ready hr, if_neg (by simp [hs]), if_neg (by simp [hfull]), State.withPut_below hp]
  refine ⟨_, rfl, ?_⟩
  rw [State.ret_buf, State.buf_setBuf]
  exact Buffer.held_put hp hg hfull v

theorem execGetb_takes (ho : (s.buf b).offsetsOk) {v : Byte} {l : List (Option Byte)} (hr : s.ready .get b)
    (hheld : (s.buf b).held = some v :: l) :
    ∃ t, execGetb b s = .next t ∧ t.answer = some ⟨.ok, .none, half v.toNat, 0⟩ ∧ (t.buf b).held = l := by
  obtain ⟨hp, hg⟩ := ho.1 hr.2
  obtain ⟨hcount, hread⟩ := Buffer.held_read (q := s.buf b) (k := 0) (v := v) (by rw [hheld]; rfl)
  have hget : (s.buf b).add (s.buf b).get.toNat 0 = (s.buf b).get.toNat := Nat.mod_eq_of_lt hg
  obtain ⟨hbyte, hafter⟩ := State.read_written (hget ▸ hread)
  have hne : (s.buf b).isEmpty ≠ true := by
    rw [Ne, Buffer.isEmpty_iff]
    intro e
    simp [Buffer.count, e] at hcount
  unfold execGetb
  rw [State.command_ready hr, if_neg hne, State.withByte_below hg, hbyte, hafter]
  refine ⟨_, rfl, ?_, ?_⟩
  · unfold State.answer
    rw [State.ret_actor]
    exact State.ret_out _ _ _ _
  · rw [State.ret_buf, State.setGet_buf]
    have htake := Buffer.held_take hp hg hcount
    rw [hheld] at htake
    exact htake

theorem execRemove_drops (ho : (s.buf b).offsetsOk) {n : Half} (hr : s.ready .get b)
    (hn : n.toNat ≤ (s.buf b).held.length) :
    ∃ t, execRemove b n s = .next t ∧ (t.buf b).held = (s.buf b).held.drop n.toNat := by
  obtain ⟨hp, hg⟩ := ho.1 hr.2
  rw [Buffer.held_length] at hn
  unfold execRemove
  rw [State.command_ready hr, if_neg (Nat.not_lt.2 hn)]
  refine ⟨_, rfl, ?_⟩
  rw [State.ret_buf, State.setGet_buf]
  exact Buffer.held_take hp hg hn

theorem execPeekat_answers (ho : (s.buf b).offsetsOk) {k : Half} {v : Byte} (hr : s.ready .get b)
    (hv : (s.buf b).held[k.toNat]? = some (some v)) : execPeekat b k s = .next (s.ret .none v.toNat 0) := by
  obtain ⟨-, hg⟩ := ho.1 hr.2
  obtain ⟨hk, hread⟩ := Buffer.held_read hv
  obtain ⟨hbyte, hafter⟩ := State.read_written hread
  unfold execPeekat State.peekAt
  rw [State.command_ready hr, if_neg (Nat.not_le.2 hk), State.withByte_below (Buffer.add_lt (by omega)), hbyte, hafter]

theorem execCount_answers (hr : s.ready .either b) :
    execCount b s = .next (s.ret .none (s.buf b).held.length 0) := by
  unfold execCount
  rw [State.command_ready hr, Buffer.held_length]

end QueueOperations

/-- Settles O27. -/
theorem queueLaws : Obligations.QueueLaws := by
  unfold Obligations.QueueLaws
  intro b s ho
  exact ⟨fun v hr hs hfull => execPutb_appends ho v hr hs hfull, fun _ _ hr hheld => execGetb_takes ho hr hheld,
    fun _ hr hn => execRemove_drops ho hr hn, fun _ _ hr hv => execPeekat_answers ho hr hv, execCount_answers⟩

end Sys2Proof.Machine

/-! ## Every step answers a next state -/

namespace Sys2Proof.Machine

open Sys2Proof.Config

/-! ### What a result needs to answer

`Answers r` is the progress companion of `Post`: one rule for each shared operation, whose premises keep every storage access
below `cap` (20_memory.md R51). -/

/-- The result is a next state: neither a fault nor a refusal. -/
def Answers (r : Result) : Prop := ∃ t, r = .next t

section Rules

variable {s t : State} {b : BufSel} {v : Byte} {off : Nat} {side : Side} {body : Result} {k : State → Result}

@[simp] theorem answers_next : Answers (.next t) := ⟨t, rfl⟩

/-- A check that answers at once, then the rest. -/
theorem Answers.guard {c : Prop} [Decidable c] (hb : ¬ c → Answers body) : Answers (if c then .next t else body) := by
  split
  · exact answers_next
  · exact hb ‹_›

theorem Answers.command (hb : s.ready side b → Answers body) : Answers (s.command side b body) := by
  obtain ⟨h, e⟩ | ⟨st, -, e⟩ := s.command_cases side b body <;> rw [e]
  · exact hb h
  · exact answers_next

theorem Answers.commandAnytime (hb : Answers body) : Answers (s.commandAnytime side b body) := by
  obtain ⟨-, e⟩ | ⟨st, -, e⟩ := s.commandAnytime_cases side b body <;> rw [e]
  · exact hb
  · exact answers_next

theorem Answers.withByte {k : Byte → State → Result} (hoff : off < (s.buf b).cap.toNat)
    (hk : ∀ x d, Answers (k x { s with draws := d })) : Answers (s.withByte b off k) := by
  obtain ⟨d, hd, -, -⟩ := s.afterRead_eq b off
  rw [State.withByte_below hoff, hd]
  exact hk _ d

theorem Answers.withWrite (hoff : off < (s.buf b).cap.toNat) (hk : ∀ t, Answers (k t)) :
    Answers (s.withWrite b off v k) := by
  rw [State.withWrite_below hoff]
  exact hk _

theorem Answers.withPut (hput : (s.buf b).put.toNat < (s.buf b).cap.toNat) (hk : ∀ t, Answers (k t)) :
    Answers (s.withPut b v k) :=
  Answers.withWrite hput fun _ => hk _

theorem Answers.withFill (hput : (s.buf b).put.toNat < (s.buf b).cap.toNat) (hk : ∀ t, Answers (k t)) :
    Answers (s.withFill b k) :=
  Answers.withWrite hput fun _ => hk _

theorem Answers.storeAll (hput : (s.buf b).put.toNat < (s.buf b).cap.toNat) (bs : List Byte) :
    Answers (s.storeAll b bs) := by
  refine Answers.guard fun _ => ?_
  split
  · exact Answers.withPut hput fun _ => answers_next
  · exact answers_next

/-- A buffer that holds a byte has its `get` below `cap` (10_state.md R24). -/
theorem Buffer.get_lt_of_count {q : Buffer} (ho : q.offsetsOk) (hc : q.count ≠ 0) : q.get.toNat < q.cap.toNat := by
  refine (ho.1 fun hcap => hc ?_).2
  obtain ⟨hput, hget, -⟩ := ho.2 hcap
  simp [Buffer.count, hput, hget]

theorem Answers.withTwoBytes {k : Byte → Byte → State → Result} (hget : (s.buf b).get.toNat < (s.buf b).cap.toNat)
    (hk : ∀ b0 b1 t, Answers (k b0 b1 t)) : Answers (s.withTwoBytes b k) := by
  refine Answers.withByte hget fun b0 d => ?_
  split
  · exact hk _ _ _
  · refine Answers.withByte (Buffer.add_lt ?_) fun b1 _ => hk _ _ _
    rw [State.draws_buf]
    exact Nat.zero_lt_of_lt hget

/-- A decode looks at held bytes only (43_codec.md R189). -/
theorem Answers.decodeWith (ho : (s.buf b).offsetsOk) {dec : Nat → Byte → Byte → Except Status Symbol}
    {k : Symbol → State → Result} (hk : ∀ y t, Answers (k y t)) : Answers (s.decodeWith b dec k) := by
  refine Answers.guard fun hc => Answers.withTwoBytes (Buffer.get_lt_of_count ho hc) fun b0 b1 t => ?_
  split
  · exact answers_next
  · exact hk _ _

/-- A round of the packet check looks at held bytes only (42_framing.md R165). -/
theorem Answers.scanPacket (ho : (s.buf b).offsetsOk) {k : Scan → State → Result} (hk : ∀ r t, Answers (k r t)) :
    Answers (s.scanPacket b k) := by
  unfold State.scanPacket
  split
  · exact hk _ _
  · rename_i hc
    have hget := Buffer.get_lt_of_count ho hc
    refine Answers.withByte hget fun b0 d => ?_
    split
    · split
      · exact hk _ _
      · exact hk _ _
    split
    · split
      · exact hk _ _
      · refine Answers.withByte (Buffer.add_lt ?_) fun b1 _ => hk _ _
        rw [State.draws_buf]
        exact Nat.zero_lt_of_lt hget
    · exact hk _ _

theorem State.pktHasRound_answers (ho : (s.buf b).offsetsOk) : Answers (s.pktHasRound b) := by
  refine Answers.scanPacket ho fun r t => ?_
  cases r <;> exact answers_next

theorem State.pktGetcRound_answers (ho : (s.buf b).offsetsOk) : Answers (s.pktGetcRound b) := by
  refine Answers.scanPacket ho fun r t => ?_
  cases r with
  | size n => exact Answers.guard fun _ => answers_next
  | filler => exact answers_next
  | malformed => exact answers_next
  | zerolen => exact answers_next

/-- Pulling a byte from `TX` (44_portdriver.md R213). -/
theorem Answers.withPulledByte (ho : s.tx.offsetsOk) (he : s.tx.isEmpty = false) (hk : ∀ t, Answers (k t)) :
    Answers (s.withPulledByte k) := by
  have hget : s.tx.get.toNat < s.tx.cap.toNat := by
    refine (ho.1 fun hcap => ?_).2
    obtain ⟨hput, hget, -⟩ := ho.2 hcap
    simp [Buffer.isEmpty, hput, hget] at he
  exact Answers.withByte (b := .tx) hget fun _ _ => hk _

theorem Answers.withKick (ho : s.tx.offsetsOk) (he : s.tx.isEmpty = false) (hk : ∀ t, Answers (k t)) :
    Answers (s.withKick k) := by
  unfold State.withKick
  dsimp only
  split
  · exact Answers.withPulledByte ho he hk
  · exact hk _

theorem Answers.withIdleKick (ho : s.tx.offsetsOk) (hk : ∀ t, Answers (k t)) : Answers (s.withIdleKick k) := by
  unfold State.withIdleKick
  split
  · rename_i hidle
    exact Answers.withKick ho hidle.2 hk
  · exact hk _

end Rules

/-! ### The instructions -/

section Instructions

variable {s : State} {b : BufSel}

theorem State.Inv.offsetsOk (h : s.Inv) (b : BufSel) : (s.buf b).offsetsOk := (h.buf_ok b).1

/-- One iteration of the receive drain (44_portdriver.md R216). -/
theorem State.drainByte_answers (ho : s.rx.offsetsOk) : Answers s.drainByte := by
  unfold State.drainByte
  split
  · exact answers_next
  · refine Answers.guard fun hc => Answers.withPut (b := .rx) ?_ fun _ => answers_next
    exact (ho.1 fun hcap => hc (.inl hcap)).1

/-- A query that reads one byte, where a check keeps the offset below `cap`. -/
theorem Answers.peekAt (hget : (s.buf b).get.toNat < (s.buf b).cap.toNat) (k : Nat) : Answers (s.peekAt b k) :=
  Answers.guard fun _ => Answers.withByte (Buffer.add_lt (Nat.zero_lt_of_lt hget)) fun _ _ => answers_next

theorem execInit_answers (cap : Half) (typ : BitVec 2) (fmt : BitVec 3) : Answers (execInit b cap typ fmt s) := by
  refine Answers.commandAnytime ?_
  split
  · exact Answers.guard fun _ => Answers.guard fun _ => answers_next
  · exact answers_next

theorem execDrd_answers (off : Half) : Answers (execDrd b off s) :=
  Answers.command fun _ => Answers.guard fun hoff => Answers.withByte (Nat.not_le.1 hoff) fun _ _ => answers_next

theorem execPktPut_answers (payload : List Byte) : Answers (execPktPut b payload s) := by
  refine Answers.command fun _ => Answers.guard fun _ => Answers.guard fun _ => Answers.guard fun _ => ?_
  split
  · exact answers_next
  · exact answers_next

variable (h : s.Inv)

include h

theorem execPutb_answers (v : Byte) : Answers (execPutb b v s) :=
  Answers.command fun hr => Answers.guard fun _ => Answers.guard fun _ =>
    Answers.withPut (h.offsets hr.2).1 fun _ => answers_next

theorem execPutbu_answers (v : Byte) : Answers (execPutbu b v s) :=
  Answers.command fun hr => Answers.guard fun _ => Answers.guard fun _ =>
    Answers.withPut (h.offsets hr.2).1 fun _ => answers_next

theorem execGetb_answers : Answers (execGetb b s) :=
  Answers.command fun hr => Answers.guard fun _ => Answers.withByte (h.offsets hr.2).2 fun _ _ => answers_next

/-- The shadow cursor is below `cap` while a transaction is open (10_state.md R29). -/
theorem execShWrite_answers (v : Byte) : Answers (execShWrite b v s) := by
  refine Answers.command fun _ => Answers.guard fun hs => Answers.guard fun _ => ?_
  obtain ⟨-, hshadow, -⟩ := h.buf_ok b
  exact Answers.withWrite (hshadow (by simpa using hs)).1 fun _ => answers_next

theorem execEncData_answers (v : Byte) : Answers (execEncData b v s) :=
  Answers.command fun hr => Answers.guard fun _ => Answers.storeAll (h.offsets hr.2).1 _

theorem execEncCtrl_answers (c : Byte) : Answers (execEncCtrl b c s) :=
  Answers.command fun hr => Answers.guard fun _ => Answers.guard fun _ => Answers.guard fun _ =>
    Answers.storeAll (h.offsets hr.2).1 _

theorem execEncQuote_answers : Answers (execEncQuote b s) :=
  Answers.command fun hr => Answers.guard fun _ => Answers.guard fun _ => Answers.storeAll (h.offsets hr.2).1 _

theorem execEncLit_answers (v : Byte) : Answers (execEncLit b v s) :=
  Answers.command fun hr => Answers.guard fun _ => Answers.guard fun _ => Answers.storeAll (h.offsets hr.2).1 _

theorem execEvTask_answers : Answers (execEvTask s) := by
  refine Answers.guard fun _ => ?_
  split
  · split
    · rename_i hne
      exact Answers.withKick (h.offsetsOk .tx) hne.2 fun _ => answers_next
    · exact answers_next
  · exact Answers.guard fun _ => answers_next

theorem execEvTxirq_answers : Answers (execEvTxirq s) := by
  refine Answers.guard fun _ => ?_
  split
  · refine Answers.guard fun he => Answers.withPulledByte (h.offsetsOk .tx) (by simpa using he) fun _ => answers_next
  · exact answers_next

/-- No instruction stops: every storage access is below `cap` (20_memory.md R51). -/
theorem exec_answers (i : Instr) : Answers (exec i s) := by
  cases i with
  | init b cap typ fmt => exact execInit_answers cap typ fmt
  | isempty b => exact Answers.command fun _ => answers_next
  | isfull b => exact Answers.command fun _ => answers_next
  | count b => exact Answers.command fun _ => answers_next
  | free b => exact Answers.command fun _ => answers_next
  | putb b v => exact execPutb_answers h v
  | putbu b v => exact execPutbu_answers h v
  | getb b => exact execGetb_answers h
  | peekb b => exact Answers.command fun hr => Answers.peekAt (h.offsets hr.2).2 0
  | peekat b k => exact Answers.command fun hr => Answers.peekAt (h.offsets hr.2).2 k.toNat
  | remove b n => exact Answers.command fun _ => Answers.guard fun _ => answers_next
  | rspan b => exact Answers.command fun _ => answers_next
  | wspan b => exact Answers.command fun _ => answers_next
  | geterr b => exact Answers.command fun _ => answers_next
  | clrerr b => exact Answers.command fun _ => answers_next
  | drd b off => exact execDrd_answers off
  | shBegin b => exact Answers.command fun _ => answers_next
  | shWrite b v => exact execShWrite_answers h v
  | shCommit b => exact Answers.command fun _ => Answers.guard fun _ => answers_next
  | pktPut b payload => exact execPktPut_answers payload
  | pktHas b => exact Answers.command fun _ => Answers.guard fun _ => State.pktHasRound_answers (h.offsetsOk b)
  | pktGetc b => exact Answers.command fun _ => Answers.guard fun _ => State.pktGetcRound_answers (h.offsetsOk b)
  | encData b v => exact execEncData_answers h v
  | encCtrl b c => exact execEncCtrl_answers h c
  | encQuote b => exact execEncQuote_answers h
  | encLit b v => exact execEncLit_answers h v
  | decPeek b => exact Answers.command fun _ => Answers.decodeWith (h.offsetsOk b) fun _ _ => answers_next
  | decGet b => exact Answers.command fun _ => Answers.decodeWith (h.offsetsOk b) fun _ _ => answers_next
  | decPeekl b =>
    exact Answers.command fun _ => Answers.guard fun _ => Answers.decodeWith (h.offsetsOk b) fun _ _ => answers_next
  | decGetl b =>
    exact Answers.command fun _ => Answers.guard fun _ => Answers.decodeWith (h.offsetsOk b) fun _ _ => answers_next
  | pdWriteb v =>
    exact Answers.command fun _ => Answers.guard fun _ => Answers.guard fun _ => Answers.guard fun _ => answers_next
  | pdIsbusy => exact Answers.command fun _ => answers_next
  | pdStatus => exact Answers.commandAnytime answers_next
  | pdClrerr => exact Answers.commandAnytime answers_next
  | evRxirq => exact Answers.guard fun _ => answers_next
  | evTxirq => exact execEvTxirq_answers h
  | evTask => exact execEvTask_answers h

end Instructions

/-! ### Micro-steps and scheduling -/

section Schedule

variable {s : State}

/-- A micro-step of the producer of `TX` (20_memory.md R60). -/
theorem State.Inv.microStep_put_answers (h : s.Inv) {m : Micro} {ms : List Micro} {kick : Bool}
    (hp : s.tx.putsOk .tx kick (m :: ms)) : Answers (s.microStep m) := by
  cases m with
  | uput b v =>
    obtain ⟨rfl, -, -, hc, -⟩ := Buffer.putsOk_uput hp
    exact Answers.withPut (h.offsets (b := .tx) hc).1 fun _ => answers_next
  | fill b =>
    obtain ⟨rfl, -, -, -, hc, -⟩ := Buffer.putsOk_fill hp
    exact Answers.withFill (h.offsets (b := .tx) hc).1 fun _ => answers_next
  | kick => exact Answers.withIdleKick (h.offsetsOk .tx) fun _ => answers_next
  | pktHas b => exact State.pktHasRound_answers (h.offsetsOk b)
  | pktGetc b => exact State.pktGetcRound_answers (h.offsetsOk b)
  | drain => exact State.drainByte_answers (h.offsetsOk .rx)

theorem runMicro_answers (h : s.Inv) (a : Agent) : Answers (runMicro a s) := by
  cases hm : (s.lane a).todo with
  | nil =>
    unfold runMicro
    rw [hm]
    exact answers_next
  | cons m ms =>
    obtain ⟨hf, hcases⟩ := h.pending_cases hm
    rw [runMicro_cons hf hm]
    have ht := h.take hm
    obtain ⟨-, hp⟩ | ⟨-, -, rfl | rfl⟩ | ⟨-, -, rfl, -⟩ := hcases
    · exact ht.microStep_put_answers (ms := ms) (by simpa using hp)
    · exact State.pktHasRound_answers (ht.offsetsOk _)
    · exact State.pktGetcRound_answers (ht.offsetsOk _)
    · exact State.drainByte_answers (ht.offsetsOk .rx)

/-- An input that fits the engine is taken by an agent that the engine has (00_scope.md R2). -/
theorem hasAgent_of_fits {kind : EngineKind} {i : Input} {a : Agent} (hfit : i.fits kind = true) (ha : i.agent = some a) :
    hasAgent kind a = true := by
  cases i with
  | cmd port w beats =>
    cases ha
    simp only [Input.fits, Bool.and_eq_true] at hfit
    exact hfit.1
  | ev v txFirst =>
    simp only [Input.agent] at ha
    split at ha
    · cases ha
    · rename_i hv
      have hport : v = 0 ∨ kind = .portEngine := by simpa [Input.fits] using hfit
      obtain rfl := hport.resolve_left hv
      split at ha <;> cases ha <;> rfl
  | go a =>
    cases ha
    exact hfit
  | tick n => cases ha
  | rx v => cases ha
  | sent => cases ha
  | seterr f => cases ha
  | periph q => cases ha
  | reset => cases ha

theorem State.planIdle_ne_stop (s : State) (r : Refusal) : s.planIdle ≠ .stop r := by
  unfold State.planIdle
  repeat' split
  all_goals exact nofun

/-- A command that fits comes with the payload beats that its word announces (30_encoding.md R86). -/
theorem State.planAgent_ne_stop {a : Agent} {i : Input} (hfit : i.fits s.par.kind = true) (rest : List Input)
    (r : Refusal) : s.planAgent a i rest ≠ .stop r := by
  unfold State.planAgent
  split
  · exact nofun
  split
  · exact nofun
  split
  · split
    · exact nofun
    · rename_i hbeats
      simp [Input.fits, hbeats] at hfit
  · exact nofun
  · exact nofun

theorem State.Inv.plan_ne_stop (h : s.Inv) (hfit : s.inputsFit) (r : Refusal) : s.plan ≠ .stop r := by
  obtain ⟨hpar, -⟩ := h
  unfold State.plan
  rw [if_neg (by simp [hpar])]
  split
  · exact s.endDrain.planIdle_ne_stop r
  · rename_i i rest hin
    have hi : i.fits s.par.kind = true := hfit i (by simp [hin])
    split
    · exact nofun
    · rename_i a ha
      rw [if_pos (hasAgent_of_fits hi ha)]
      exact State.planAgent_ne_stop (by simpa using hi) rest r

end Schedule

theorem step_answers {s : State} (h : s.Inv) (hfit : s.inputsFit) : Answers (step s) := by
  have hplan := h.plan_ok
  have hstop := h.plan_ne_stop hfit
  unfold step
  cases hp : s.plan with
  | stop r => exact absurd hp (hstop r)
  | done t => exact answers_next
  | micro a t =>
    rw [hp] at hplan
    exact runMicro_answers hplan a
  | run f t =>
    rw [hp] at hplan
    obtain ⟨ht, -⟩ := hplan
    dsimp only
    split
    · exact exec_answers ht _
    · exact answers_next

/-- Settles O8: the plan of a state whose inputs fit is no stop, and no micro-step and no instruction accesses the storage at
or above `cap`. -/
theorem stepProgress : Obligations.StepProgress := by
  unfold Obligations.StepProgress
  exact fun _ h hfit => step_answers h hfit

end Sys2Proof.Machine

/-! ## The frame of the queries and of the get side -/

namespace Sys2Proof.Machine

/-- What a query or a peek can change: the response, and the counter of free draws (20_memory.md R67). -/
def Answered (s t : State) : Prop := ∃ r d, t = State.respond r { s with draws := d }

/-- What an operation that consumes can change: `get` of its buffer, its agent's lane, and the counter of free draws
(20_memory.md R62). -/
def GetEffect (s : State) (b : BufSel) (t : State) : Prop :=
  ∃ g d l, t = ({ s with draws := d }.setBuf b { s.buf b with get := g }).setLane s.actor l

section GetFrame

variable {s t : State} {b : BufSel} {side : Side}

/-! ### Queries and peeks -/

theorem Answered.intro (r : Response) (d : Nat) : Answered s (State.respond r { s with draws := d }) := ⟨r, d, rfl⟩

theorem Answered.ret (kind : Kind) (m n : Nat) : Answered s (s.ret kind m n) := Answered.intro _ s.draws

theorem Answered.refuse (st : Status) : Answered s (s.refuse st) := Answered.intro _ s.draws

theorem Answered.query (kind : Kind) (m n : Nat) : Post (Answered s) (s.command side b (.next (s.ret kind m n))) :=
  Post.command Answered.refuse fun _ => post_next.2 (Answered.ret _ _ _)

theorem Answered.withByte {off : Nat} : Post (Answered s) (s.withByte b off fun v t => .next (t.ret .none v.toNat 0)) :=
  Post.withByte fun _ d _ => post_next.2 (Answered.intro _ d)

theorem Answered.peekAt (k : Nat) : Post (Answered s) (s.peekAt b k) :=
  Post.guard (Answered.refuse _) fun _ => Answered.withByte

theorem Answered.decodeWith (dec : Nat → Byte → Byte → Except Status Symbol) :
    Post (Answered s) (s.decodeWith b dec State.peekSymbol) :=
  Post.decodeWith (fun _ d => Answered.intro _ d) fun _ _ _ d _ _ => post_next.2 (Answered.intro _ d)

theorem execPeekb_answered : Post (Answered s) (execPeekb b s) :=
  Post.command Answered.refuse fun _ => Answered.peekAt 0

theorem execPeekat_answered (k : Half) : Post (Answered s) (execPeekat b k s) :=
  Post.command Answered.refuse fun _ => Answered.peekAt k.toNat

theorem execDrd_answered (off : Half) : Post (Answered s) (execDrd b off s) :=
  Post.command Answered.refuse fun _ => Post.guard (Answered.refuse _) fun _ => Answered.withByte

theorem execDecPeek_answered : Post (Answered s) (execDecPeek b s) :=
  Post.command Answered.refuse fun _ => Answered.decodeWith _

theorem execDecPeekl_answered : Post (Answered s) (execDecPeekl b s) :=
  Post.command Answered.refuse fun _ => Post.guard (Answered.refuse _) fun _ => Answered.decodeWith _

theorem execPdStatus_answered : Post (Answered s) (execPdStatus s) :=
  Post.commandAnytime Answered.refuse fun _ => post_next.2 (Answered.ret _ _ _)

/-- The queries and the peeks, operation by operation. -/
theorem exec_query_answered {i : Instr} {k : Half}
    (hi : i ∈ [.isempty b, .isfull b, .count b, .free b, .rspan b, .wspan b, .geterr b, .peekb b, .peekat b k, .drd b k,
      .decPeek b, .decPeekl b, .pdIsbusy, .pdStatus]) : Post (Answered s) (exec i s) := by
  simp only [List.mem_cons, List.not_mem_nil, or_false] at hi
  obtain rfl | rfl | rfl | rfl | rfl | rfl | rfl | rfl | rfl | rfl | rfl | rfl | rfl | rfl := hi
  · exact Answered.query _ _ _
  · exact Answered.query _ _ _
  · exact Answered.query _ _ _
  · exact Answered.query _ _ _
  · exact Answered.query _ _ _
  · exact Answered.query _ _ _
  · exact Answered.query _ _ _
  · exact execPeekb_answered
  · exact execPeekat_answered k
  · exact execDrd_answered k
  · exact execDecPeek_answered
  · exact execDecPeekl_answered
  · exact Answered.query _ _ _
  · exact execPdStatus_answered

/-! ### Operations that consume -/

theorem Answered.getEffect (h : Answered s t) : GetEffect s b t := by
  obtain ⟨r, d, rfl⟩ := h
  refine ⟨(s.buf b).get, d, { s.lane s.actor with out := some r }, ?_⟩
  cases b <;> rfl

theorem GetEffect.refuse (st : Status) : GetEffect s b (s.refuse st) := (Answered.refuse st).getEffect

theorem GetEffect.setGet_respond (n d : Nat) (r : Response) :
    GetEffect s b (State.respond r (State.setGet { s with draws := d } b n)) := by
  cases b <;> exact ⟨half n, d, _, rfl⟩

theorem GetEffect.setGet_begin (n d : Nat) (ms : List Micro) (r : Option Response) :
    GetEffect s b ((State.setGet { s with draws := d } b n).begin ms r) := by
  cases b <;> exact ⟨half n, d, _, rfl⟩

theorem execGetb_effect : Post (GetEffect s b) (execGetb b s) :=
  Post.command GetEffect.refuse fun _ => Post.guard (GetEffect.refuse _) fun _ =>
    Post.withByte fun _ d _ => post_next.2 (GetEffect.setGet_respond _ d _)

theorem execRemove_effect (n : Half) : Post (GetEffect s b) (execRemove b n s) :=
  Post.command GetEffect.refuse fun _ => Post.guard (GetEffect.refuse _) fun _ =>
    post_next.2 (GetEffect.setGet_respond _ s.draws _)

theorem GetEffect.decodeWith (dec : Nat → Byte → Byte → Except Status Symbol) :
    Post (GetEffect s b) (s.decodeWith b dec (State.getSymbol b)) :=
  Post.decodeWith (fun _ d => (Answered.intro _ d).getEffect) fun _ _ _ d _ _ =>
    post_next.2 (GetEffect.setGet_respond _ d _)

theorem execDecGet_effect : Post (GetEffect s b) (execDecGet b s) :=
  Post.command GetEffect.refuse fun _ => GetEffect.decodeWith _

theorem execDecGetl_effect : Post (GetEffect s b) (execDecGetl b s) :=
  Post.command GetEffect.refuse fun _ => Post.guard (GetEffect.refuse _) fun _ => GetEffect.decodeWith _

/-- A round writes `get` only where it removes a filler (42_framing.md R165). -/
theorem State.pktHasRound_effect : Post (GetEffect s b) (s.pktHasRound b) := by
  refine Post.scanPacket fun r d _ => ?_
  cases r with
  | filler => exact post_next.2 (GetEffect.setGet_begin _ d _ _)
  | size n => exact post_next.2 (Answered.intro _ d).getEffect
  | malformed => exact post_next.2 (Answered.intro _ d).getEffect
  | zerolen => exact post_next.2 (Answered.intro _ d).getEffect

theorem State.pktGetcRound_effect : Post (GetEffect s b) (s.pktGetcRound b) := by
  refine Post.scanPacket fun r d _ => ?_
  cases r with
  | filler => exact post_next.2 (GetEffect.setGet_begin _ d _ _)
  | size n => exact Post.guard (Answered.intro _ d).getEffect fun _ => post_next.2 (Answered.intro _ d).getEffect
  | malformed => exact post_next.2 (Answered.intro _ d).getEffect
  | zerolen => exact post_next.2 (Answered.intro _ d).getEffect

theorem execPktHas_effect : Post (GetEffect s b) (execPktHas b s) :=
  Post.command GetEffect.refuse fun _ => Post.guard (GetEffect.refuse _) fun _ => State.pktHasRound_effect

theorem execPktGetc_effect : Post (GetEffect s b) (execPktGetc b s) :=
  Post.command GetEffect.refuse fun _ => Post.guard (GetEffect.refuse _) fun _ => State.pktGetcRound_effect

/-- The operations that consume, one by one. -/
theorem exec_get_effect {i : Instr} {n : Half}
    (hi : i ∈ [.getb b, .remove b n, .pktHas b, .pktGetc b, .decGet b, .decGetl b]) :
    Post (GetEffect s b) (exec i s) := by
  simp only [List.mem_cons, List.not_mem_nil, or_false] at hi
  obtain rfl | rfl | rfl | rfl | rfl | rfl := hi
  · exact execGetb_effect
  · exact execRemove_effect n
  · exact execPktHas_effect
  · exact execPktGetc_effect
  · exact execDecGet_effect
  · exact execDecGetl_effect

end GetFrame

/-- Settles O58. -/
theorem getSideFrame : Obligations.GetSideFrame := by
  unfold Obligations.GetSideFrame
  exact ⟨fun _ _ _ _ t hi ht => exec_query_answered hi t ht, fun _ _ _ _ t hi ht => exec_get_effect hi t ht⟩

end Sys2Proof.Machine

/-! ## The held bytes -/

namespace Sys2Proof.Machine

/-- No offset of the held region is written (20_memory.md R68). -/
def KeepsHeld (s t : State) : Prop :=
  ∀ b off, (s.buf b).holds off → Memory.read (t.buf b).store off = Memory.read (s.buf b).store off

section Held

variable {s t u : State} {b : BufSel} {off : Option Nat} {v : Byte}

theorem KeepsHeld.of_store (h : ∀ b, (t.buf b).store = (s.buf b).store) : KeepsHeld s t :=
  fun b _ _ => by rw [h b]

theorem KeepsHeld.of_buf (h : ∀ b, u.buf b = s.buf b) (hu : KeepsHeld u t) : KeepsHeld s t := by
  intro b off hoff
  rw [← h b] at hoff ⊢
  exact hu b off hoff

/-- One buffer changes, and of its storage no byte but one outside the held region. -/
theorem KeepsHeld.of_setBuf {q : Buffer} {x : Nat} (ht : ∀ c, (t.buf c).store = ((s.setBuf b q).buf c).store)
    (hq : q.store = Memory.write (s.buf b).store x v) (hx : ¬ (s.buf b).holds x) : KeepsHeld s t := by
  intro c y hy
  rw [ht c]
  by_cases hc : c = b
  · subst hc
    rw [State.buf_setBuf, hq]
    exact Memory.read_write_of_ne _ _ fun e => hx (e ▸ hy)
  · rw [State.buf_setBuf_of_ne _ _ hc]

/-- `put` is outside the held region, and an uninitialised buffer holds nothing (10_state.md R24, R25). -/
theorem Buffer.not_holds_put {q : Buffer} (ho : q.offsetsOk) : ¬ q.holds q.put.toNat := by
  by_cases hc : q.cap = 0
  · obtain ⟨hput, hget, -⟩ := ho.2 hc
    rintro ⟨k, hk, -⟩
    simp [Buffer.count, hput, hget] at hk
  · obtain ⟨hput, hget⟩ := ho.1 hc
    exact Buffer.put_not_held hput hget

@[simp] theorem State.settle_buf (s : State) (b : BufSel) : s.settle.buf b = s.buf b := by
  unfold State.settle
  dsimp only
  split
  · exact State.setLane_buf _ _ _ _
  · rfl

/-! ### From the frames -/

theorem Answered.keepsHeld (h : Answered s t) : KeepsHeld s t := by
  obtain ⟨r, d, rfl⟩ := h
  exact KeepsHeld.of_store fun c => by simp

theorem GetEffect.keepsHeld (h : GetEffect s b t) : KeepsHeld s t := by
  obtain ⟨g, d, l, rfl⟩ := h
  refine KeepsHeld.of_store fun c => ?_
  by_cases hc : c = b
  · simp [hc]
  · simp [State.buf_setBuf_of_ne _ _ hc]

theorem PutEffect.keepsHeld (h : PutEffect s b off t) (hoff : ∀ x, off = some x → ¬ (s.buf b).holds x) :
    KeepsHeld s t := by
  intro c x hx
  by_cases hc : c = b
  · subst hc
    exact h.read fun e => hoff x e.symm hx
  · obtain ⟨-, -, -, -, hother, -⟩ := h.keeps
    rw [hother c hc]

/-- A byte stored at `put` is stored outside the held region. -/
theorem PutEffect.keepsHeld_put (ho : (s.buf b).offsetsOk) (h : PutEffect s b (some (s.buf b).put.toNat) t) :
    KeepsHeld s t :=
  h.keepsHeld fun _ e => Option.some.inj e ▸ Buffer.not_holds_put ho

theorem PutEffect.keepsHeld_none (h : PutEffect s b none t) : KeepsHeld s t := h.keepsHeld nofun

theorem InitKeeps.keepsHeld (h : InitKeeps s b t) : KeepsHeld s t := by
  obtain ⟨hother, hread, -⟩ := h
  intro c x _
  by_cases hc : c = b
  · exact hc ▸ hread x
  · rw [hother c hc]

theorem TransmitKeeps.keepsHeld (h : TransmitKeeps s t) : KeepsHeld s t := by
  obtain ⟨hrx, -, -, -, -, -, -, g, htx⟩ := h
  refine KeepsHeld.of_store fun c => ?_
  cases c with
  | tx => simp [htx]
  | rx => simp [hrx]

/-! ### The instructions -/

/-- `PUTBU` on a full buffer stores nothing: the fault latch sets (40_ringstore.md R119). -/
theorem execPutbu_keepsHeld (ho : (s.buf b).offsetsOk) : Post (KeepsHeld s) (execPutbu b v s) := by
  refine execPutbu_effect.mono fun t h => ?_
  obtain h | rfl := h
  · exact h.keepsHeld_put ho
  · exact KeepsHeld.of_store fun c => by simp

/-- The shadow cursor is outside the held region where `SH_WRITE` stores a byte (41_shadow.md R152). -/
theorem execShWrite_keepsHeld (h : s.Inv) : Post (KeepsHeld s) (execShWrite b v s) := by
  have hrefuse : ∀ st, KeepsHeld s (s.refuse st) := fun st => (Answered.refuse st).keepsHeld
  refine Post.command hrefuse fun hr => Post.guard (hrefuse _) fun hs => ?_
  split
  · exact post_next.2 (PutEffect.keepsHeld_none PutEffect.refuseNoSpace)
  · rename_i hne
    have hcur := Buffer.cur_not_held (h.buf_ok b) hr.2 (by simpa using hs) hne
    refine Post.withWrite fun _ => post_next.2 (KeepsHeld.of_setBuf (v := v) (q := { s.buf b with
      store := Memory.write (s.buf b).store (s.buf b).cur.toNat v }) (fun c => ?_) rfl hcur)
    rw [State.ret_buf]
    cases b <;> cases c <;> rfl

theorem execClrerr_keepsHeld : Post (KeepsHeld s) (execClrerr b s) := by
  refine execClrerr_keeps.mono fun t h => ?_
  obtain ⟨e, r, rfl⟩ := h
  refine KeepsHeld.of_store fun c => ?_
  cases b <;> cases c <;> simp

theorem execPdClrerr_keepsHeld : Post (KeepsHeld s) (execPdClrerr s) := by
  refine execPdClrerr_keeps.mono fun t h => ?_
  obtain ⟨e, f, r, rfl⟩ := h
  exact KeepsHeld.of_store fun c => by cases c <;> simp

theorem execPdWriteb_keepsHeld : Post (KeepsHeld s) (execPdWriteb v s) := by
  refine (execPdWriteb_keeps v).mono fun t h => ?_
  obtain ⟨e, l, rfl⟩ := h
  exact KeepsHeld.of_store fun c => by cases c <;> simp

theorem execEvRxirq_keepsHeld : Post (KeepsHeld s) (execEvRxirq s) := by
  refine execEvRxirq_keeps.mono fun t h => ?_
  obtain ⟨q, l, rfl, -⟩ := h
  exact KeepsHeld.of_store fun c => by cases c <;> rfl

theorem exec_keepsHeld (h : s.Inv) (i : Instr) : Post (KeepsHeld s) (exec i s) := by
  have hquery : ∀ {r : Result}, Post (Answered s) r → Post (KeepsHeld s) r := fun h => h.mono fun _ => Answered.keepsHeld
  have hget : ∀ {b} {r : Result}, Post (GetEffect s b) r → Post (KeepsHeld s) r := fun h =>
    h.mono fun _ => GetEffect.keepsHeld
  have hput : ∀ {b} {r : Result}, Post (PutEffect s b (some (s.buf b).put.toNat)) r → Post (KeepsHeld s) r := fun hr =>
    hr.mono fun _ => PutEffect.keepsHeld_put (h.offsetsOk _)
  have hnone : ∀ {b} {r : Result}, Post (PutEffect s b none) r → Post (KeepsHeld s) r := fun h =>
    h.mono fun _ => PutEffect.keepsHeld_none
  cases i with
  | init b cap typ fmt => exact (execInit_keeps cap typ fmt).mono fun _ => InitKeeps.keepsHeld
  | isempty b => exact hquery (Answered.query _ _ _)
  | isfull b => exact hquery (Answered.query _ _ _)
  | count b => exact hquery (Answered.query _ _ _)
  | free b => exact hquery (Answered.query _ _ _)
  | putb b v => exact hput execPutb_effect
  | putbu b v => exact execPutbu_keepsHeld (h.offsetsOk b)
  | getb b => exact hget execGetb_effect
  | peekb b => exact hquery execPeekb_answered
  | peekat b k => exact hquery (execPeekat_answered k)
  | remove b n => exact hget (execRemove_effect n)
  | rspan b => exact hquery (Answered.query _ _ _)
  | wspan b => exact hquery (Answered.query _ _ _)
  | geterr b => exact hquery (Answered.query _ _ _)
  | clrerr b => exact execClrerr_keepsHeld
  | drd b off => exact hquery (execDrd_answered off)
  | shBegin b => exact hnone execShBegin_effect
  | shWrite b v => exact execShWrite_keepsHeld h
  | shCommit b => exact hnone execShCommit_effect
  | pktPut b payload => exact hnone (execPktPut_effect payload)
  | pktHas b => exact hget execPktHas_effect
  | pktGetc b => exact hget execPktGetc_effect
  | encData b v => exact hput execEncData_effect
  | encCtrl b c => exact hnone execEncCtrl_effect
  | encQuote b => exact hput execEncQuote_effect
  | encLit b v => exact hput execEncLit_effect
  | decPeek b => exact hquery execDecPeek_answered
  | decGet b => exact hget execDecGet_effect
  | decPeekl b => exact hquery execDecPeekl_answered
  | decGetl b => exact hget execDecGetl_effect
  | pdWriteb v => exact execPdWriteb_keepsHeld
  | pdIsbusy => exact hquery (Answered.query _ _ _)
  | pdStatus => exact hquery execPdStatus_answered
  | pdClrerr => exact execPdClrerr_keepsHeld
  | evRxirq => exact execEvRxirq_keepsHeld
  | evTxirq => exact execEvTxirq_keeps.mono fun _ => TransmitKeeps.keepsHeld
  | evTask => exact execEvTask_keeps.mono fun _ => TransmitKeeps.keepsHeld

/-! ### Micro-steps -/

/-- A byte is stored at `put`, whatever `put` becomes and whatever happens behind it to the lanes. -/
theorem KeepsHeld.store_put (ho : (s.buf b).offsetsOk) (p : Half) (ht : ∀ c, t.buf c = (s.setBuf b { s.buf b with
    store := Memory.write (s.buf b).store (s.buf b).put.toNat v, put := p }).buf c) : KeepsHeld s t :=
  KeepsHeld.of_setBuf (fun c => by rw [ht c]) rfl (Buffer.not_holds_put ho)

theorem State.withIdleKick_keepsHeld : Post (KeepsHeld s) (s.withIdleKick State.done) := by
  have hdone : ∀ {t : State}, (∀ c, (t.buf c).store = (s.buf c).store) → Post (KeepsHeld s) t.done := fun h =>
    post_next.2 (KeepsHeld.of_store fun c => by rw [State.settle_buf, h c])
  unfold State.withIdleKick
  split
  · unfold State.withKick
    dsimp only
    split
    · exact Post.withPulledByte fun _ _ _ => hdone fun c => by cases c <;> rfl
    · exact hdone fun c => by cases c <;> rfl
  · exact hdone fun _ => rfl

theorem State.drainByte_keepsHeld (ho : s.rx.offsetsOk) : Post (KeepsHeld s) s.drainByte := by
  unfold State.drainByte
  split
  · exact post_next.2 (KeepsHeld.of_store fun _ => rfl)
  · dsimp only
    split
    · exact post_next.2 (KeepsHeld.of_store fun c => by cases c <;> rfl)
    · exact Post.withPut (post_next.2 (KeepsHeld.store_put (b := .rx) ho _ fun c => by cases c <;> rfl))

theorem State.microStep_keepsHeld (ho : ∀ b, (s.buf b).offsetsOk) (m : Micro) : Post (KeepsHeld s) (s.microStep m) := by
  cases m with
  | uput b v => exact Post.withPut (post_next.2 (KeepsHeld.store_put (ho b) _ fun c => State.settle_buf _ c))
  | fill b => exact Post.withFill (post_next.2 (KeepsHeld.store_put (ho b) _ fun c => State.settle_buf _ c))
  | kick => exact State.withIdleKick_keepsHeld
  | pktHas b => exact State.pktHasRound_effect.mono fun _ => GetEffect.keepsHeld
  | pktGetc b => exact State.pktGetcRound_effect.mono fun _ => GetEffect.keepsHeld
  | drain =>
    have hround : Post (KeepsHeld { s with laneI := { s.laneI with todo := .drain :: s.laneI.todo } }) s.drainRound :=
      State.drainByte_keepsHeld (ho .rx)
    exact hround.mono fun _ => KeepsHeld.of_buf fun c => by cases c <;> rfl

@[simp] theorem State.take_buf (s : State) (a : Agent) (ms : List Micro) (b : BufSel) : (s.take a ms).buf b = s.buf b := by
  cases a <;> cases b <;> rfl

theorem runMicro_keepsHeld (ho : ∀ b, (s.buf b).offsetsOk) (a : Agent) : Post (KeepsHeld s) (runMicro a s) := by
  cases hm : (s.lane a).todo with
  | nil =>
    unfold runMicro
    rw [hm]
    exact post_next.2 (KeepsHeld.of_store fun _ => rfl)
  | cons m ms =>
    cases hf : s.fault with
    | false =>
      rw [runMicro_cons hf hm]
      exact ((s.take a ms).microStep_keepsHeld (by simpa using ho) m).mono fun _ => KeepsHeld.of_buf fun c => by simp
    | true =>
      unfold runMicro
      rw [hm]
      simp only [hf]
      exact post_next.2 (KeepsHeld.of_store fun c => by simp)

end Held

/-! ### Scheduling -/

/-- The buffers are those of `s` when what is planned is taken. -/
def Plan.SameBuffers (s : State) : Plan → Prop
  | .stop _ => True
  | .done t => ∀ b, t.buf b = s.buf b
  | .micro _ t => ∀ b, t.buf b = s.buf b
  | .run _ t => ∀ b, t.buf b = s.buf b

section Schedule

variable {s : State}

@[simp] theorem State.endDrain_buf (s : State) (b : BufSel) : s.endDrain.buf b = s.buf b := by
  unfold State.endDrain
  split
  · rfl
  · cases b <;> rfl

theorem State.planIdle_sameBuffers (s : State) : s.planIdle.SameBuffers s := by
  unfold State.planIdle
  repeat' split
  all_goals exact fun _ => rfl

theorem State.planAgent_sameBuffers (s : State) (a : Agent) (i : Input) (rest : List Input) :
    (s.planAgent a i rest).SameBuffers s := by
  unfold State.planAgent
  split
  · exact fun _ => rfl
  split
  · split
    · exact fun b => by cases b <;> rfl
    · exact fun _ => rfl
  split
  · split
    · exact fun b => by cases b <;> rfl
    · trivial
  · exact fun b => by cases b <;> rfl
  · exact fun b => by cases b <;> rfl

/-- Reset is the only move of the environment that touches a buffer (70_reset_and_hazards.md R270). -/
theorem State.outside_buf {i : Input} (hi : i ≠ .reset) (b : BufSel) : (s.outside i).buf b = s.buf b := by
  cases i with
  | reset => exact absurd rfl hi
  | tick n => cases b <;> rfl
  | cmd port w beats => cases b <;> rfl
  | ev v txFirst => cases b <;> rfl
  | go a => cases b <;> rfl
  | rx v => cases b <;> rfl
  | sent => cases b <;> rfl
  | seterr f => cases b <;> rfl
  | periph q => cases b <;> rfl

theorem Plan.SameBuffers.trans {s t : State} {p : Plan} (h : p.SameBuffers t) (ht : ∀ b, t.buf b = s.buf b) :
    p.SameBuffers s := by
  cases p with
  | stop r => trivial
  | done u => exact fun b => (h b).trans (ht b)
  | micro a u => exact fun b => (h b).trans (ht b)
  | run f u => exact fun b => (h b).trans (ht b)

theorem State.plan_sameBuffers (hin : s.inputs.head? ≠ some .reset) : s.plan.SameBuffers s := by
  unfold State.plan
  split
  · trivial
  split
  · exact s.endDrain.planIdle_sameBuffers.trans s.endDrain_buf
  · rename_i i rest hi
    split
    · intro b
      rw [State.outside_buf fun e => hin (by simp [hi, e])]
      cases b <;> rfl
    · split
      · exact (s.endDrain.planAgent_sameBuffers _ _ _).trans s.endDrain_buf
      · trivial

theorem State.illegalWord_answered (s : State) : Answered s s.illegalWord := by
  unfold State.illegalWord
  split
  · exact Answered.refuse _
  · exact Answered.refuse _

theorem step_keepsHeld (h : s.Inv) (hin : s.inputs.head? ≠ some .reset) : Post (KeepsHeld s) (step s) := by
  have hplan := h.plan_ok
  have hbuf := State.plan_sameBuffers hin
  unfold step
  cases hp : s.plan with
  | stop r => exact post_refused
  | done t =>
    rw [hp] at hbuf
    exact post_next.2 (KeepsHeld.of_store fun b => by rw [hbuf b])
  | micro a t =>
    rw [hp] at hplan hbuf
    exact (runMicro_keepsHeld (State.Inv.offsetsOk hplan) a).mono fun _ => KeepsHeld.of_buf hbuf
  | run f t =>
    rw [hp] at hplan hbuf
    obtain ⟨ht, -⟩ := hplan
    dsimp only
    split
    · exact (exec_keepsHeld ht _).mono fun _ => KeepsHeld.of_buf hbuf
    · exact post_next.2 (t.illegalWord_answered.keepsHeld.of_buf hbuf)

end Schedule

/-- Settles O9: what is planned starts from the same buffers, and what is stored then is stored at `put` or at the shadow
cursor, both outside the held region. -/
theorem heldBytesKept : Obligations.HeldBytesKept := by
  unfold Obligations.HeldBytesKept
  exact fun _ t h hin ht => step_keepsHeld h hin t ht

end Sys2Proof.Machine

/-! ## Whose turn it is -/

namespace Sys2Proof.Machine

section Turns

variable {s : State} {a : Agent} {i : Input} {rest : List Input} {v : BitVec 3} {txFirst : Bool}

/-- The state without a receive drain in progress. -/
def State.noDrain (s : State) : State := { s with laneI := { s.laneI with todo := [] } }

theorem State.noDrain_lane (ha : a ≠ .irq) : s.noDrain.lane a = s.lane a := by
  cases a with
  | irq => exact absurd rfl ha
  | p => rfl
  | g => rfl
  | h => rfl

theorem State.pending_iff : s.pending a = true ↔ (s.lane a).todo ≠ [] := by
  simp [State.pending]

theorem State.endDrain_hasRx (h : s.per.hasRx = true) : s.endDrain = s := by
  unfold State.endDrain
  rw [if_pos h]

/-- A drain that is over, or has found no byte any more, is no event in progress (44_portdriver.md R216). -/
theorem State.endDrain_noDrain (h : s.laneI.todo = [] ∨ s.per.hasRx = false) : s.endDrain = s.noDrain := by
  unfold State.endDrain State.noDrain
  split
  · rename_i hrx
    have htodo : s.laneI.todo = [] := h.resolve_right (by simp [hrx])
    rw [← htodo]
  · rfl

/-! ### The turn of one agent -/

/-- An interrupt event in progress goes before every other agent (44_portdriver.md R225). -/
theorem State.planAgent_irq_first (hi : s.laneI.todo ≠ []) (ha : a ≠ .irq) : s.planAgent a i rest = .micro .irq s := by
  have hpending : s.pending .irq = true := State.pending_iff.2 hi
  unfold State.planAgent
  rw [if_pos (by simp [hpending, ha])]

/-- An agent with a micro-step pending takes it, and what else the input asks for waits (60_exceptions.md R250). -/
theorem State.planAgent_pending (hirq : a ≠ .irq → s.laneI.todo = []) (hl : (s.lane a).todo ≠ []) :
    s.planAgent a i rest = .micro a (if i = .go a then { s with inputs := rest } else s) := by
  have hfirst : (s.pending .irq && a != .irq) = false := by
    by_cases ha : a = .irq
    · simp [ha]
    · simp [State.pending, hirq ha]
  unfold State.planAgent
  rw [hfirst, if_neg nofun, if_pos (State.pending_iff.2 hl)]

/-- An agent with nothing pending is served the strobe that comes first; the others stay raised (60_exceptions.md R248). -/
theorem State.planAgent_strobe (hirq : s.laneI.todo = []) (hl : (s.lane a).todo = []) :
    s.planAgent a (.ev v txFirst) rest = .run (.ev (pickStrobe v txFirst)) { s with
      inputs := if v = pickStrobe v txFirst then rest else .ev (v &&& ~~~pickStrobe v txFirst) txFirst :: rest
      actor := a } := by
  simp [State.planAgent, State.pending, hirq, hl]

/-! ### The step -/

theorem State.plan_of_agent (hpar : s.par.ok = true) (hin : s.inputs = i :: rest) (hi : i.agent = some a)
    (ha : hasAgent s.par.kind a = true) : s.plan = s.endDrain.planAgent a i rest := by
  simp [State.plan, hpar, hin, hi, ha]

theorem step_of_plan_micro {t : State} (h : s.plan = .micro a t) : step s = runMicro a t := by
  unfold step
  rw [h]

theorem step_of_plan_event {t : State} {e : BitVec 3} {j : Instr} (h : s.plan = .run (.ev e) t)
    (hj : decodeEvent e = .ok j) : step s = exec j t := by
  unfold step
  rw [h]
  simp only [decode, hj]

/-- While the drain is in progress, the interrupt agent goes first, whatever the input asks for. -/
theorem step_draining (hpar : s.par.ok = true) (hi : s.laneI.todo ≠ []) (hrx : s.per.hasRx = true)
    (hin : s.inputs = i :: rest) (hagent : i.agent = some a) (ha : hasAgent s.par.kind a = true) :
    step s = runMicro .irq (if i = .go .irq then { s with inputs := rest } else s) := by
  refine step_of_plan_micro ?_
  rw [State.plan_of_agent hpar hin hagent ha, State.endDrain_hasRx hrx]
  by_cases hirq : a = .irq
  · subst hirq
    exact State.planAgent_pending (fun h => absurd rfl h) hi
  · have hgo : i ≠ .go .irq := by
      rintro rfl
      exact hirq (Option.some.inj hagent).symm
    rw [if_neg hgo]
    exact State.planAgent_irq_first hi hirq

/-- With no drain in progress, an agent that has a micro-step pending takes it. -/
theorem step_pending (hpar : s.par.ok = true) (hd : s.laneI.todo = [] ∨ s.per.hasRx = false)
    (hin : s.inputs = i :: rest) (hagent : i.agent = some a) (ha : hasAgent s.par.kind a = true) (hirq : a ≠ .irq)
    (hl : (s.lane a).todo ≠ []) :
    step s = runMicro a (if i = .go a then { s.noDrain with inputs := rest } else s.noDrain) := by
  refine step_of_plan_micro ?_
  rw [State.plan_of_agent hpar hin hagent ha, State.endDrain_noDrain hd]
  exact State.planAgent_pending (fun _ => rfl) (by rwa [State.noDrain_lane hirq])

/-- With no drain in progress, an interrupt strobe is served before the others (60_exceptions.md R248). -/
theorem step_interrupt (hpar : s.par.ok = true) (hd : s.laneI.todo = [] ∨ s.per.hasRx = false)
    (hk : s.par.kind = .portEngine) (hin : s.inputs = .ev v txFirst :: rest)
    (hagent : (Input.ev v txFirst).agent = some .irq) {j : Instr} (hj : decodeEvent (pickStrobe v txFirst) = .ok j) :
    step s = exec j { s.noDrain with
      inputs := if v = pickStrobe v txFirst then rest else .ev (v &&& ~~~pickStrobe v txFirst) txFirst :: rest
      actor := .irq } := by
  refine step_of_plan_event ?_ hj
  rw [State.plan_of_agent hpar hin hagent (by rw [hk]; rfl), State.endDrain_noDrain hd]
  exact State.planAgent_strobe rfl rfl

/-- With nothing to do the block waits (70_reset_and_hazards.md R272). -/
theorem step_idle (hpar : s.par.ok = true) (hd : s.laneI.todo = [] ∨ s.per.hasRx = false) (hin : s.inputs = [])
    (hl : ∀ a, a ≠ .irq → (s.lane a).todo = []) : step s = .next s.noDrain := by
  have hidle : ∀ a, s.noDrain.pending a = false := by
    intro a
    by_cases ha : a = .irq
    · subst ha
      rfl
    · simp [State.pending, State.noDrain_lane ha, hl a ha]
  have hplan : s.plan = .done s.noDrain := by
    simp [State.plan, hpar, hin, State.endDrain_noDrain hd, State.planIdle, hidle]
  unfold step
  rw [hplan]

theorem Port.agent_ne_irq (port : Port) : port.agent ≠ .irq := by
  cases port <;> exact nofun

/-- The agent of a strobe is one of a PortEngine's two. -/
theorem hasAgent_of_strobe (hv : v ≠ 0) : ∃ a, (Input.ev v txFirst).agent = some a ∧ hasAgent .portEngine a = true := by
  simp only [Input.agent, if_neg hv]
  split
  · exact ⟨.irq, rfl, rfl⟩
  · exact ⟨.h, rfl, rfl⟩

end Turns

/-- Settles O12. -/
theorem turns : Obligations.Turns := by
  unfold Obligations.Turns
  refine ⟨fun s hpar hi hrx => ⟨fun port w beats rest hin ha => ?_, fun v txFirst rest hin hv hk => ?_,
    fun a rest hin ha => ?_⟩, fun s hpar hd => ⟨fun port w beats rest hin ha hl => ?_, fun txFirst rest hin hk hl => ?_,
    fun a rest hin ha hirq hl => ?_, fun txFirst rest hk => ⟨fun hin => ?_, fun hin => ?_, fun hin => ?_, fun hin => ?_⟩,
    step_idle hpar hd⟩⟩
  · exact step_draining hpar hi hrx hin rfl ha
  · obtain ⟨a, hagent, ha⟩ := hasAgent_of_strobe (txFirst := txFirst) hv
    exact step_draining hpar hi hrx hin hagent (by rw [hk, ha])
  · simpa using step_draining hpar hi hrx hin rfl ha
  · exact step_pending hpar hd hin rfl ha port.agent_ne_irq hl
  · exact step_pending (a := .h) hpar hd hin rfl (by rw [hk]; rfl) nofun hl
  · have hstep := step_pending hpar hd hin rfl ha hirq hl
    rwa [if_pos rfl] at hstep
  · cases txFirst <;> exact step_interrupt hpar hd hk hin rfl rfl
  · cases txFirst <;> exact step_interrupt hpar hd hk hin rfl rfl
  · cases txFirst <;> exact step_interrupt hpar hd hk hin rfl rfl
  · cases txFirst <;> exact step_interrupt hpar hd hk hin rfl rfl

end Sys2Proof.Machine

/-! ## The micro-steps of a put -/

namespace Sys2Proof.Machine

/-- The lane after a micro-step: the response is given if it was the last (70_reset_and_hazards.md R290). -/
def Lane.settled (l : Lane) : Lane := if l.todo = [] ∧ l.reply ≠ none then ⟨[], none, l.reply⟩ else l

section MicroSteps

variable {s : State} {a : Agent} {b : BufSel} {rest : List Micro}

@[simp] theorem State.setLane_self (s : State) (a : Agent) : s.setLane a (s.lane a) = s := by
  cases a <;> rfl

theorem State.settle_eq (s : State) : s.settle = s.setLane s.actor (s.lane s.actor).settled := by
  unfold State.settle Lane.settled
  dsimp only
  split
  · rename_i htodo hreply
    simp [htodo, hreply]
  · rename_i hopen
    rw [if_neg, State.setLane_self]
    rintro ⟨htodo, hreply⟩
    obtain ⟨r, hr⟩ := Option.ne_none_iff_exists'.1 hreply
    exact hopen r htodo hr

/-- After a change of a buffer in the micro-step, its agent's lane settles. -/
theorem State.settle_take_setBuf (q : Buffer) :
    ((s.take a rest).setBuf b q).settle =
      ({ s with actor := a }.setBuf b q).setLane a (Lane.settled ⟨rest, (s.lane a).reply, (s.lane a).out⟩) := by
  rw [State.settle_eq]
  cases a <;> cases b <;> rfl

/-- `uput` (20_memory.md R60). -/
theorem runMicro_uput {v : Byte} (hf : s.fault = false) (hput : (s.buf b).put.toNat < (s.buf b).cap.toNat)
    (hl : (s.lane a).todo = .uput b v :: rest) :
    runMicro a s = .next (({ s with actor := a }.setBuf b { s.buf b with
      store := Memory.write (s.buf b).store (s.buf b).put.toNat v
      put := half ((s.buf b).inc (s.buf b).put.toNat) }).setLane a
        (Lane.settled ⟨rest, (s.lane a).reply, (s.lane a).out⟩)) := by
  rw [runMicro_cons hf hl]
  simp only [State.microStep]
  rw [State.withPut_below (by simpa using hput), State.take_buf]
  exact congrArg _ (State.settle_take_setBuf _)

/-- `fill` (20_memory.md R60). -/
theorem runMicro_fill (hf : s.fault = false) (hput : (s.buf b).put.toNat < (s.buf b).cap.toNat)
    (hl : (s.lane a).todo = .fill b :: rest) :
    runMicro a s = .next (({ s with actor := a }.setBuf b { s.buf b with
      store := Memory.write (s.buf b).store (s.buf b).put.toNat 0xFF#8
      put := 0 }).setLane a (Lane.settled ⟨rest, (s.lane a).reply, (s.lane a).out⟩)) := by
  rw [runMicro_cons hf hl]
  simp only [State.microStep]
  rw [State.withFill_below (by simpa using hput), State.take_buf]
  exact congrArg _ (State.settle_take_setBuf _)

/-! ### The kick-start -/

/-- A read uses up a draw where nothing has been written since reset (20_memory.md R66). -/
theorem State.afterRead_eq_ite (s : State) (b : BufSel) (off : Nat) :
    s.afterRead b off =
      { s with draws := if Memory.read (s.buf b).store off = none then s.draws + 1 else s.draws } := by
  cases hread : Memory.read (s.buf b).store off with
  | some v => exact (State.read_written hread).2
  | none => exact (State.read_unwritten hread).2

/-- The state after a byte is pulled from `TX` (44_portdriver.md R213). -/
def State.pulled (s : State) : State :=
  { s with
    draws := if Memory.read s.tx.store s.tx.get.toNat = none then s.draws + 1 else s.draws
    tx := { s.tx with get := half (s.tx.inc s.tx.get.toNat) }
    per := { s.per with txreg := some (s.byteAt .tx s.tx.get.toNat) } }

theorem State.withPulledByte_below {k : State → Result} (hget : s.tx.get.toNat < s.tx.cap.toNat) :
    s.withPulledByte k = k s.pulled := by
  unfold State.withPulledByte
  rw [State.withByte_below (b := .tx) hget, State.afterRead_eq_ite]
  rfl

/-- The state with the transmission started and the deadline set (44_portdriver.md R213). -/
def State.started (s : State) : State := { s with pstate := .transmitting, deadline := s.armed }

/-- What the last micro-step of `PD_WRITEB` does before the response (44_portdriver.md R213, R217). -/
def State.kicked (s : State) : State :=
  if s.pstate ≠ .idle ∨ s.tx.put = s.tx.get then s else if s.per.txreg ≠ none then s.started else s.started.pulled

theorem State.withIdleKick_eq {k : State → Result} (hget : s.tx.get.toNat < s.tx.cap.toNat) :
    s.withIdleKick k = k s.kicked := by
  have hcond : (s.pstate = .idle ∧ s.tx.isEmpty = false) ↔ ¬ (s.pstate ≠ .idle ∨ s.tx.put = s.tx.get) := by
    simp [Buffer.isEmpty]
  unfold State.withIdleKick State.kicked
  by_cases hidle : s.pstate ≠ .idle ∨ s.tx.put = s.tx.get
  · rw [if_pos hidle, if_neg fun h => hcond.1 h hidle]
  · rw [if_neg hidle, if_pos (hcond.2 hidle)]
    unfold State.withKick
    dsimp only
    by_cases htx : s.per.txreg = none
    · rw [if_pos (by simp [Peripheral.canTx, htx]), if_neg (by simp [htx])]
      exact State.withPulledByte_below (s := s.started) hget
    · rw [if_neg (by simpa [Peripheral.canTx] using htx), if_pos htx]
      rfl

/-- `kick` with its response behind it (44_portdriver.md R217; 70_reset_and_hazards.md R290). -/
theorem runMicro_kick {r : Response} (hf : s.fault = false) (hget : s.tx.get.toNat < s.tx.cap.toNat)
    (hl : s.laneH = ⟨[.kick], some r, none⟩) :
    runMicro .h s = .next (State.kicked { s with actor := .h, laneH := ⟨[], none, some r⟩ }) := by
  have htake : s.take .h [] = { s with actor := .h, laneH := ⟨[], some r, none⟩ } := by
    simp [State.take, State.setTodo, State.setLane, hl]
  have hsettle : (s.take .h []).kicked.settle = State.kicked { s with actor := .h, laneH := ⟨[], none, some r⟩ } := by
    rw [htake]
    unfold State.kicked
    dsimp only
    split
    · rfl
    split
    · rfl
    · rfl
  rw [runMicro_cons (m := .kick) (ms := []) hf (by simp [hl]), ← hsettle]
  exact State.withIdleKick_eq (by rw [State.take_tx]; exact hget)

end MicroSteps

/-- Settles O37. -/
theorem microSteps : Obligations.MicroSteps := by
  unfold Obligations.MicroSteps
  refine ⟨fun a b rest s hf ho hc => ⟨fun v hl => ?_, fun hl => ?_⟩, fun s r hf ho hc hl => ?_⟩
  · exact runMicro_uput hf (ho.1 hc).1 hl
  · exact runMicro_fill hf (ho.1 hc).1 hl
  · dsimp only
    rw [runMicro_kick hf (ho.1 hc).2 hl, State.afterRead_eq_ite]
    rfl

end Sys2Proof.Machine

/-! ## Command words: fields, masks and operand forms -/

namespace Sys2Proof

open Machine

section Words

variable {w : Word} {op : BitVec 8} {b : BufSel} {aux : BitVec 7} {arg : Half} {i : Instr} {beats : List Byte}

/-! ### Bit vectors cut into fields -/

theorem append_eq_iff {m n : Nat} {x : BitVec m} {y : BitVec n} {z : BitVec (m + n)} :
    x ++ y = z ↔ z.extractLsb' n m = x ∧ z.extractLsb' 0 n = y := by
  constructor
  · rintro rfl
    exact ⟨BitVec.extractLsb'_append_eq_left, BitVec.extractLsb'_append_eq_right⟩
  · rintro ⟨rfl, rfl⟩
    exact BitVec.extractLsb'_append_extractLsb'

theorem append_inj_iff {m n : Nat} {x x' : BitVec m} {y y' : BitVec n} : x ++ y = x' ++ y' ↔ x = x' ∧ y = y' := by
  rw [append_eq_iff, BitVec.extractLsb'_append_eq_left, BitVec.extractLsb'_append_eq_right, eq_comm, @eq_comm _ y']

/-- A field of a field. -/
theorem extractLsb'_extractLsb' {m k j l n : Nat} {x : BitVec n} (h : j + l ≤ k) :
    (x.extractLsb' m k).extractLsb' j l = x.extractLsb' (m + j) l := by
  apply BitVec.eq_of_getLsbD_eq
  intro i hi
  simp [hi, show j + i < k by omega, Nat.add_assoc]

/-- The mask of the bits above the lowest `n`. -/
theorem and_high_eq_zero_iff {m n : Nat} {z : BitVec (m + n)} :
    z &&& (BitVec.allOnes m ++ 0#n) = 0#(m + n) ↔ z.extractLsb' n m = 0#m := by
  conv_lhs => rw [← BitVec.extractLsb'_append_extractLsb' (x := z), ← BitVec.zero_append_zero]
  rw [BitVec.and_append, append_inj_iff, BitVec.and_allOnes, BitVec.and_zero, and_iff_left rfl]

/-- The operands of `INIT` fill the `AUX` field (30_encoding.md R85). -/
theorem initAux_eq_iff {typ : BitVec 2} {fmt : BitVec 3} :
    0#2 ++ fmt ++ typ = aux ↔
      aux.extractLsb' 5 2 = 0#2 ∧ aux.extractLsb' 2 3 = fmt ∧ aux.extractLsb' 0 2 = typ := by
  rw [append_eq_iff (m := 2 + 3), eq_comm, append_eq_iff, and_assoc,
    extractLsb'_extractLsb' (by decide), extractLsb'_extractLsb' (by decide)]

@[simp] theorem BufSel.bit_ofBit (x : BitVec 1) : (BufSel.ofBit x).bit = x := by
  obtain rfl | rfl := BitVec.eq_zero_or_eq_one x <;> rfl

/-! ### The fields of a word -/

theorem word_eq_fields (w : Word) : opField w ++ bufField w ++ auxField w ++ argField w = w := by
  unfold opField bufField auxField argField
  rw [BitVec.extractLsb'_append_extractLsb'_eq_extractLsb' (show 24 = 23 + 1 from rfl),
    BitVec.extractLsb'_append_extractLsb'_eq_extractLsb' (show 23 = 16 + 7 from rfl),
    BitVec.extractLsb'_append_extractLsb'_eq_extractLsb' (show 16 = 0 + 16 from rfl)]
  exact BitVec.extractLsb'_eq_self

/-- A word is the one that its fields spell (30_encoding.md R80). -/
theorem assemble_eq_iff :
    assemble op b aux arg = w ↔ opField w = op ∧ bufField w = b.bit ∧ auxField w = aux ∧ argField w = arg := by
  constructor
  · rintro rfl
    simp
  · rintro ⟨rfl, hb, rfl, rfl⟩
    unfold assemble
    rw [← hb, word_eq_fields]

/-- The word with the opcode `op` and zeros below it. -/
def rowWord (op : BitVec 8) : Word := assemble op .tx 0#7 0#16

theorem word_ext_iff {m : Word} :
    w = m ↔ opField w = opField m ∧ bufField w = bufField m ∧ auxField w = auxField m ∧ argField w = argField m := by
  constructor
  · rintro rfl
    simp
  · rintro ⟨hop, hbuf, haux, harg⟩
    rw [← word_eq_fields w, ← word_eq_fields m, hop, hbuf, haux, harg]

/-- A masked word is compared field by field (30_encoding.md R87). -/
theorem and_eq_iff_fields {k m : Word} :
    w &&& k = m ↔ opField w &&& opField k = opField m ∧ bufField w &&& bufField k = bufField m ∧
      auxField w &&& auxField k = auxField m ∧ argField w &&& argField k = argField m := by
  rw [word_ext_iff]
  simp only [opField, bufField, auxField, argField, BitVec.extractLsb'_and]

/-! ### The masks of the opcode map -/

/-- The `match` of a row is its opcode, with zeros below it; its mask selects the opcode and the bits that must be 0
(30_encoding.md R87). -/
theorem and_mask_eq_iff {m : Word} (hm : rowWord (opField m) = m) :
    w &&& assemble (BitVec.allOnes 8) b aux arg = m ↔
      opField w = opField m ∧ bufField w &&& b.bit = 0#1 ∧ auxField w &&& aux = 0#7 ∧ argField w &&& arg = 0#16 := by
  rw [← hm, and_eq_iff_fields]
  simp only [rowWord, opField_assemble, bufField_assemble, auxField_assemble, argField_assemble, BitVec.and_allOnes,
    BufSel.bit]

/-- A command's row has its opcode as `match`. -/
theorem rowWord_opcodeRow (hi : sideOf i ≠ .event) : rowWord (opField (opcodeRow i).1) = (opcodeRow i).1 := by
  cases i with
  | evRxirq | evTxirq | evTask => exact absurd rfl hi
  | _ => simp only [opcodeRow]; decide

theorem argField_high_iff : argField w &&& (BitVec.allOnes 8 ++ 0#8) = 0#16 ↔ w.extractLsb' 8 8 = 0#8 := by
  rw [(byteField_eq w).2]
  exact and_high_eq_zero_iff (m := 8)

theorem auxField_high_iff : auxField w &&& (BitVec.allOnes 2 ++ 0#5) = 0#7 ↔ w.extractLsb' 21 2 = 0#2 := by
  rw [(initFields_eq w).2.2]
  exact and_high_eq_zero_iff (m := 2)

theorem plain_match_iff {m : Word} (hm : rowWord (opField m) = m) :
    w &&& 0xFF7FFFFF = m ↔ opField w = opField m ∧ auxField w = 0#7 ∧ argField w = 0#16 := by
  refine (and_mask_eq_iff (b := .tx) (aux := BitVec.allOnes 7) (arg := BitVec.allOnes 16) hm).trans ?_
  simp only [BufSel.bit, BitVec.and_allOnes, BitVec.and_zero, true_and]

theorem byte_match_iff {m : Word} (hm : rowWord (opField m) = m) :
    w &&& 0xFF7FFF00 = m ↔ opField w = opField m ∧ auxField w = 0#7 ∧ w.extractLsb' 8 8 = 0#8 := by
  refine (and_mask_eq_iff (b := .tx) (aux := BitVec.allOnes 7) (arg := BitVec.allOnes 8 ++ 0#8) hm).trans ?_
  simp only [BufSel.bit, BitVec.and_allOnes, BitVec.and_zero, true_and, argField_high_iff]

theorem half_match_iff {m : Word} (hm : rowWord (opField m) = m) :
    w &&& 0xFF7F0000 = m ↔ opField w = opField m ∧ auxField w = 0#7 := by
  refine (and_mask_eq_iff (b := .tx) (aux := BitVec.allOnes 7) (arg := 0#16) hm).trans ?_
  simp only [BufSel.bit, BitVec.and_allOnes, BitVec.and_zero, true_and, and_true]

theorem init_match_iff {m : Word} (hm : rowWord (opField m) = m) :
    w &&& 0xFF600000 = m ↔ opField w = opField m ∧ w.extractLsb' 21 2 = 0#2 := by
  refine (and_mask_eq_iff (b := .tx) (aux := BitVec.allOnes 2 ++ 0#5) (arg := 0#16) hm).trans ?_
  simp only [BufSel.bit, BitVec.and_zero, true_and, and_true, auxField_high_iff]

theorem host_match_iff {m : Word} (hm : rowWord (opField m) = m) :
    w &&& 0xFFFFFFFF = m ↔ opField w = opField m ∧ bufField w = 0#1 ∧ auxField w = 0#7 ∧ argField w = 0#16 := by
  refine (and_mask_eq_iff (b := .rx) (aux := BitVec.allOnes 7) (arg := BitVec.allOnes 16) hm).trans ?_
  rw [show BufSel.rx.bit = BitVec.allOnes 1 from rfl]
  simp only [BitVec.and_allOnes]

theorem hostByte_match_iff {m : Word} (hm : rowWord (opField m) = m) :
    w &&& 0xFFFFFF00 = m ↔ opField w = opField m ∧ bufField w = 0#1 ∧ auxField w = 0#7 ∧ w.extractLsb' 8 8 = 0#8 := by
  refine (and_mask_eq_iff (b := .rx) (aux := BitVec.allOnes 7) (arg := BitVec.allOnes 8 ++ 0#8) hm).trans ?_
  rw [show BufSel.rx.bit = BitVec.allOnes 1 from rfl]
  simp only [BitVec.and_allOnes, argField_high_iff]

/-! ### What each operand form accepts -/

theorem form_eq_ok_iff {c : Prop} [Decidable c] {j : Instr} {e : DecodeError} :
    (if c then Except.ok j else .error e) = .ok i ↔ c ∧ j = i := by
  split <;> simp [*]

theorem plainForm_eq_ok_iff {f : BufSel → Instr} :
    plainForm w f = .ok i ↔ ∃ b, f b = i ∧ assemble (opField w) b 0#7 0#16 = w := by
  unfold plainForm
  rw [form_eq_ok_iff]
  constructor
  · rintro ⟨⟨haux, harg⟩, rfl⟩
    exact ⟨_, rfl, assemble_eq_iff.2 ⟨rfl, by simp, haux, harg⟩⟩
  · rintro ⟨b, rfl, hw⟩
    obtain ⟨-, hbuf, haux, harg⟩ := assemble_eq_iff.1 hw
    simp [hbuf, haux, harg]

theorem byteForm_eq_ok_iff {f : BufSel → Byte → Instr} :
    byteForm w f = .ok i ↔ ∃ b v, f b v = i ∧ assemble (opField w) b 0#7 (0#8 ++ v) = w := by
  unfold byteForm
  rw [form_eq_ok_iff, (byteField_eq w).1, (byteField_eq w).2]
  constructor
  · rintro ⟨⟨haux, harg⟩, rfl⟩
    exact ⟨_, _, rfl, assemble_eq_iff.2 ⟨rfl, by simp, haux, (append_eq_iff.2 ⟨harg, rfl⟩).symm⟩⟩
  · rintro ⟨b, v, rfl, hw⟩
    obtain ⟨-, hbuf, haux, harg⟩ := assemble_eq_iff.1 hw
    obtain ⟨hhigh, hlow⟩ := append_eq_iff.1 harg.symm
    simp [hbuf, haux, hhigh, hlow]

theorem halfForm_eq_ok_iff {f : BufSel → Half → Instr} :
    halfForm w f = .ok i ↔ ∃ b n, f b n = i ∧ assemble (opField w) b 0#7 n = w := by
  unfold halfForm
  rw [form_eq_ok_iff]
  constructor
  · rintro ⟨haux, rfl⟩
    exact ⟨_, _, rfl, assemble_eq_iff.2 ⟨rfl, by simp, haux, rfl⟩⟩
  · rintro ⟨b, n, rfl, hw⟩
    obtain ⟨-, hbuf, haux, harg⟩ := assemble_eq_iff.1 hw
    simp [hbuf, haux, harg]

theorem hostForm_eq_ok_iff {j : Instr} :
    hostForm w j = .ok i ↔ j = i ∧ assemble (opField w) .tx 0#7 0#16 = w := by
  unfold hostForm
  rw [form_eq_ok_iff, and_comm, assemble_eq_iff]
  simp [BufSel.bit]

theorem hostByteForm_eq_ok_iff {f : Byte → Instr} :
    hostByteForm w f = .ok i ↔ ∃ v, f v = i ∧ assemble (opField w) .tx 0#7 (0#8 ++ v) = w := by
  unfold hostByteForm
  rw [form_eq_ok_iff, (byteField_eq w).1, (byteField_eq w).2]
  constructor
  · rintro ⟨⟨hbuf, haux, harg⟩, rfl⟩
    exact ⟨_, rfl, assemble_eq_iff.2 ⟨rfl, hbuf, haux, (append_eq_iff.2 ⟨harg, rfl⟩).symm⟩⟩
  · rintro ⟨v, rfl, hw⟩
    obtain ⟨-, hbuf, haux, harg⟩ := assemble_eq_iff.1 hw
    obtain ⟨hhigh, hlow⟩ := append_eq_iff.1 harg.symm
    simp [hbuf, haux, hhigh, hlow, BufSel.bit]

theorem initForm_eq_ok_iff :
    initForm w = .ok i ↔
      ∃ b cap typ fmt, .init b cap typ fmt = i ∧ assemble (opField w) b (0#2 ++ fmt ++ typ) cap = w := by
  obtain ⟨htyp, hfmt, hhigh⟩ := initFields_eq w
  unfold initForm
  rw [form_eq_ok_iff, htyp, hfmt, hhigh]
  constructor
  · rintro ⟨hzero, rfl⟩
    exact ⟨_, _, _, _, rfl, assemble_eq_iff.2 ⟨rfl, by simp, (initAux_eq_iff.2 ⟨hzero, rfl, rfl⟩).symm, rfl⟩⟩
  · rintro ⟨b, cap, typ, fmt, rfl, hw⟩
    obtain ⟨-, hbuf, haux, harg⟩ := assemble_eq_iff.1 hw
    obtain ⟨hzero, hfmt, htyp⟩ := initAux_eq_iff.1 haux.symm
    simp [hbuf, hzero, hfmt, htyp, harg]

theorem packetForm_eq_ok_iff :
    packetForm w beats = .ok i ↔ ∃ b, .pktPut b beats = i ∧ assemble (opField w) b 0#7 (argField w) = w := by
  unfold packetForm
  rw [form_eq_ok_iff]
  constructor
  · rintro ⟨haux, rfl⟩
    exact ⟨_, rfl, assemble_eq_iff.2 ⟨rfl, by simp, haux, rfl⟩⟩
  · rintro ⟨b, rfl, hw⟩
    obtain ⟨-, hbuf, haux, -⟩ := assemble_eq_iff.1 hw
    simp [hbuf, haux]

end Words

end Sys2Proof

/-! ## Decoding and encoding -/

namespace Sys2Proof

open Machine

section Frames

variable {w : Word} {op : BitVec 8} {b : BufSel} {aux : BitVec 7} {arg : Half} {i : Instr} {beats : List Byte}

theorem decode_cmd_eq (hb : beats.length = beatCount w) : decode (.cmd w beats) = decodeOp w beats :=
  if_pos hb

/-- A command that decodes has the payload beats its word announces (30_encoding.md R86). -/
theorem decode_cmd_ok (h : decode (.cmd w beats) = .ok i) : beats.length = beatCount w ∧ decodeOp w beats = .ok i := by
  by_cases hb : beats.length = beatCount w
  · exact ⟨hb, decode_cmd_eq hb ▸ h⟩
  · simp [decode, decodeCommand, hb] at h

/-! ### Decoding what the encoder writes -/

@[simp] theorem plainForm_assemble (f : BufSel → Instr) : plainForm (assemble op b 0#7 0#16) f = .ok (f b) :=
  plainForm_eq_ok_iff.2 ⟨b, rfl, by simp⟩

@[simp] theorem byteForm_assemble (f : BufSel → Byte → Instr) (v : Byte) :
    byteForm (assemble op b 0#7 (0#8 ++ v)) f = .ok (f b v) :=
  byteForm_eq_ok_iff.2 ⟨b, v, rfl, by simp⟩

@[simp] theorem halfForm_assemble (f : BufSel → Half → Instr) : halfForm (assemble op b 0#7 arg) f = .ok (f b arg) :=
  halfForm_eq_ok_iff.2 ⟨b, arg, rfl, by simp⟩

@[simp] theorem hostForm_assemble : hostForm (assemble op .tx 0#7 0#16) i = .ok i :=
  hostForm_eq_ok_iff.2 ⟨rfl, by simp⟩

@[simp] theorem hostByteForm_assemble (f : Byte → Instr) (v : Byte) :
    hostByteForm (assemble op .tx 0#7 (0#8 ++ v)) f = .ok (f v) :=
  hostByteForm_eq_ok_iff.2 ⟨v, rfl, by simp⟩

@[simp] theorem initForm_assemble (typ : BitVec 2) (fmt : BitVec 3) :
    initForm (assemble op b (0#2 ++ fmt ++ typ) arg) = .ok (.init b arg typ fmt) :=
  initForm_eq_ok_iff.2 ⟨b, arg, typ, fmt, rfl, by simp⟩

@[simp] theorem packetForm_assemble : packetForm (assemble op b 0#7 arg) beats = .ok (.pktPut b beats) :=
  packetForm_eq_ok_iff.2 ⟨b, rfl, by simp⟩

/-- Only `PKT_PUT` is followed by payload beats (30_encoding.md R86). -/
theorem decode_assemble (hop : op ≠ 0x20#8) :
    decode (.cmd (assemble op b aux arg) []) = decodeOp (assemble op b aux arg) [] :=
  decode_cmd_eq (by simp [beatCount_assemble, hop])

theorem decode_pktPut {payload : List Byte} (h : payload.length < 65536) :
    decode (encode (.pktPut b payload)) = .ok (.pktPut b payload) := by
  have hcount : payload.length = beatCount (assemble 0x20#8 b 0#7 (half payload.length)) := by
    rw [beatCount_assemble, if_pos rfl, half_toNat h]
  rw [encode, decode_cmd_eq hcount]
  simp [decodeOp]

theorem decode_encode (h : i.wf = true) : decode (encode i) = .ok i := by
  cases i with
  | pktPut b payload => exact decode_pktPut (of_decide_eq_true h)
  | evRxirq | evTxirq | evTask => rfl
  | _ => simp [encode, decode_assemble, decodeOp]

/-! ### Encoding what the decoder reads -/

theorem opField_eq {n : Nat} (hop : (opField w).toNat = n) : opField w = BitVec.ofNat 8 n := by
  rw [← hop, BitVec.ofNat_toNat, BitVec.setWidth_eq]

/-- A word that is no `PKT_PUT` has no payload beats, so that it is the whole frame (30_encoding.md R86). -/
theorem encode_eq_frame {n : Nat} (hop : (opField w).toNat = n) (hn : n ≠ 0x20) (hb : beats.length = beatCount w)
    (he : encode i = .cmd (assemble (BitVec.ofNat 8 n) b aux arg) []) (hw : assemble (opField w) b aux arg = w) :
    encode i = .cmd w beats := by
  have hne : opField w ≠ 0x20#8 := fun h => hn (by rw [← hop, h]; rfl)
  have hnil : beats = [] := List.eq_nil_of_length_eq_zero (by rw [hb, beatCount, if_neg hne])
  rw [he, ← opField_eq hop, hw, hnil]

theorem beatCount_lt (w : Word) : beatCount w < 65536 := by
  unfold beatCount
  split
  · exact (argField w).isLt
  · decide

theorem encode_of_packetForm (hop : (opField w).toNat = 0x20) (hb : beats.length = beatCount w)
    (h : packetForm w beats = .ok i) : encode i = .cmd w beats := by
  obtain ⟨b, rfl, hw⟩ := packetForm_eq_ok_iff.1 h
  have hlen : half beats.length = argField w := by
    rw [hb, beatCount, if_pos (opField_eq hop), half_toNat_self]
  rw [encode, hlen, ← opField_eq hop, hw]

/-- By the cases of `decodeOp`: case `h_n` is the n-th row of R87, `h_35` no row; the rows are grouped by their operands, those
without an operand last. -/
theorem encode_of_decodeOp (hb : beats.length = beatCount w) (h : decodeOp w beats = .ok i) :
    encode i = .cmd w beats := by
  unfold decodeOp at h
  split at h
  case h_1 hop =>
    obtain ⟨b, cap, typ, fmt, rfl, hw⟩ := initForm_eq_ok_iff.1 h
    exact encode_eq_frame hop (by decide) hb rfl hw
  case h_20 hop => exact encode_of_packetForm hop hb h
  case h_6 hop | h_7 hop | h_18 hop | h_23 hop | h_24 hop | h_26 hop =>
    obtain ⟨b, v, rfl, hw⟩ := byteForm_eq_ok_iff.1 h
    exact encode_eq_frame hop (by decide) hb rfl hw
  case h_10 hop | h_11 hop | h_16 hop =>
    obtain ⟨b, n, rfl, hw⟩ := halfForm_eq_ok_iff.1 h
    exact encode_eq_frame hop (by decide) hb rfl hw
  case h_31 hop =>
    obtain ⟨v, rfl, hw⟩ := hostByteForm_eq_ok_iff.1 h
    exact encode_eq_frame hop (by decide) hb rfl hw
  case h_32 hop | h_33 hop | h_34 hop =>
    obtain ⟨rfl, hw⟩ := hostForm_eq_ok_iff.1 h
    exact encode_eq_frame hop (by decide) hb rfl hw
  case h_35 => cases h
  all_goals
    rename_i hop
    obtain ⟨b, rfl, hw⟩ := plainForm_eq_ok_iff.1 h
    exact encode_eq_frame hop (by decide) hb rfl hw

theorem encode_of_decodeEvent {v : BitVec 3} (h : decodeEvent v = .ok i) : encode i = .ev v := by
  unfold decodeEvent at h
  split at h <;> cases h
  all_goals
    rename_i hv
    exact congrArg Frame.ev (BitVec.eq_of_toNat_eq hv.symm)

theorem encode_of_decode {f : Frame} (h : decode f = .ok i) : encode i = f := by
  cases f with
  | cmd w beats =>
    obtain ⟨hb, hop⟩ := decode_cmd_ok h
    exact encode_of_decodeOp hb hop
  | ev v => exact encode_of_decodeEvent h

/-- A payload that a frame can carry makes a well-formed instruction (30_encoding.md R86). -/
theorem wf_of_encode_cmd (h : encode i = .cmd w beats) (hb : beats.length = beatCount w) : i.wf = true := by
  cases i with
  | pktPut b payload =>
    cases h
    exact decide_eq_true (hb ▸ beatCount_lt _)
  | _ => rfl

theorem wf_of_decode {f : Frame} (h : decode f = .ok i) : i.wf = true := by
  have henc := encode_of_decode h
  cases f with
  | cmd w beats => exact wf_of_encode_cmd henc (decode_cmd_ok h).1
  | ev v =>
    cases i with
    | pktPut => cases henc
    | _ => rfl

/-! ### The opcode map -/

@[simp] theorem extractLsb'_assemble_byte (v : Byte) : (assemble op b aux (0#8 ++ v)).extractLsb' 8 8 = 0#8 := by
  rw [(byteField_eq _).2, argField_assemble]
  exact BitVec.extractLsb'_append_eq_left

@[simp] theorem extractLsb'_assemble_init (typ : BitVec 2) (fmt : BitVec 3) :
    (assemble op b (0#2 ++ fmt ++ typ) arg).extractLsb' 21 2 = 0#2 := by
  rw [(initFields_eq _).2.2, auxField_assemble]
  exact (initAux_eq_iff.1 rfl).1

theorem opField_of_encode (h : encode i = .cmd w beats) : opField w = opField (opcodeRow i).1 := by
  cases i with
  | evRxirq | evTxirq | evTask => cases h
  | _ =>
    cases h
    rw [opField_assemble, opcodeRow]
    rfl

/-- An accepted word matches the row of its operation (30_encoding.md R87). -/
theorem match_of_decode (h : decode (.cmd w beats) = .ok i) : w &&& (opcodeRow i).2 = (opcodeRow i).1 := by
  have hrow := rowWord_opcodeRow (decode_cmd_not_event h)
  have henc := encode_of_decode h
  have hop := opField_of_encode henc
  cases i
  case evRxirq | evTxirq | evTask => cases henc
  all_goals cases henc
  case init => exact (init_match_iff hrow).2 ⟨hop, by simp⟩
  case putb | putbu | shWrite | encData | encCtrl | encLit =>
    exact (byte_match_iff hrow).2 ⟨hop, by simp, by simp⟩
  case peekat | remove | drd | pktPut => exact (half_match_iff hrow).2 ⟨hop, by simp⟩
  case pdWriteb => exact (hostByte_match_iff hrow).2 ⟨hop, bufField_assemble .., by simp, by simp⟩
  case pdIsbusy | pdStatus | pdClrerr =>
    exact (host_match_iff hrow).2 ⟨hop, bufField_assemble .., by simp, by simp⟩
  all_goals exact (plain_match_iff hrow).2 ⟨hop, by simp, by simp⟩

/-- A word that matches a row is accepted as an operation of that row (30_encoding.md R87). -/
theorem decodeOp_of_match (hi : sideOf i ≠ .event) (h : w &&& (opcodeRow i).2 = (opcodeRow i).1) :
    ∃ j, decodeOp w beats = .ok j ∧ opcodeRow j = opcodeRow i := by
  have hrow := rowWord_opcodeRow hi
  unfold decodeOp
  cases i
  case evRxirq | evTxirq | evTask => exact absurd rfl hi
  case init =>
    obtain ⟨hop, hhigh⟩ := (init_match_iff hrow).1 h
    rw [hop]
    simp [opField, opcodeRow, initForm, hhigh]
  case putb | putbu | shWrite | encData | encCtrl | encLit =>
    obtain ⟨hop, haux, hhigh⟩ := (byte_match_iff hrow).1 h
    rw [hop]
    simp [opField, opcodeRow, byteForm, haux, hhigh]
  case peekat | remove | drd =>
    obtain ⟨hop, haux⟩ := (half_match_iff hrow).1 h
    rw [hop]
    simp [opField, opcodeRow, halfForm, haux]
  case pktPut =>
    obtain ⟨hop, haux⟩ := (half_match_iff hrow).1 h
    rw [hop]
    simp [opField, opcodeRow, packetForm, haux]
  case pdWriteb =>
    obtain ⟨hop, hbuf, haux, hhigh⟩ := (hostByte_match_iff hrow).1 h
    rw [hop]
    simp [opField, opcodeRow, hostByteForm, hbuf, haux, hhigh]
  case pdIsbusy | pdStatus | pdClrerr =>
    obtain ⟨hop, hbuf, haux, harg⟩ := (host_match_iff hrow).1 h
    rw [hop]
    simp [opField, opcodeRow, hostForm, hbuf, haux, harg]
  all_goals
    obtain ⟨hop, haux, harg⟩ := (plain_match_iff hrow).1 h
    rw [hop]
    simp [opField, opcodeRow, plainForm, haux, harg]

end Frames

/-- Settles O1, by the constructors: each operand form reads back the fields that `assemble` writes. -/
theorem decodeOfEncode : Obligations.DecodeOfEncode := by
  unfold Obligations.DecodeOfEncode
  exact fun i => decode_encode

/-- Settles O2, by the rows of `decodeOp`: what an operand form accepts is spelled by its fields. -/
theorem encodeOfDecode : Obligations.EncodeOfDecode := by
  unfold Obligations.EncodeOfDecode
  exact fun f i h => ⟨wf_of_decode h, encode_of_decode h⟩

/-- Settles O3: each mask compares the fields that the operand form of the row checks. -/
theorem opcodeMap : Obligations.OpcodeMap := by
  unfold Obligations.OpcodeMap
  refine ⟨fun w beats i => match_of_decode, fun w beats i hi hmatch hb => ?_⟩
  rw [decode_cmd_eq hb]
  exact decodeOp_of_match hi hmatch

/-- The fields of a response word (30_encoding.md R82). -/
theorem response_word_fields (r : Response) :
    r.word.extractLsb' 36 4 = r.st.code ∧ r.word.extractLsb' 32 4 = r.kind.code ∧
      r.word.extractLsb' 16 16 = r.a ∧ r.word.extractLsb' 0 16 = r.b := by
  obtain ⟨hhigh, hb⟩ := append_eq_iff.1 (show r.st.code ++ r.kind.code ++ r.a ++ r.b = r.word from rfl)
  obtain ⟨hcodes, ha⟩ := append_eq_iff.1 hhigh.symm
  obtain ⟨hst, hkind⟩ := append_eq_iff.1 hcodes.symm
  rw [extractLsb'_extractLsb' (by decide)] at ha hst hkind
  rw [extractLsb'_extractLsb' (by decide)] at hst hkind
  exact ⟨hst, hkind, ha, hb⟩

/-- Settles O4: the words by evaluation, the response word by its fields. -/
theorem sampleWords : Obligations.SampleWords := by
  unfold Obligations.SampleWords
  refine ⟨by decide, response_word_fields, rfl, rfl⟩

end Sys2Proof

/-! ## What a step runs -/

namespace Sys2Proof.Machine

section Runs

variable {s t : State} {a : Agent} {i : Instr} {w : Word} {beats : List Byte} {port : Port} {rest : List Input}
  {v : BitVec 3} {txFirst : Bool}

/-- An agent with nothing pending is served its command (30_encoding.md R80). -/
theorem State.planAgent_cmd (hirq : s.laneI.todo = []) (hl : (s.lane a).todo = [])
    (hb : beats.length = beatCount w) :
    s.planAgent a (.cmd port w beats) rest = .run (.cmd w beats) { s with inputs := rest, actor := a } := by
  simp [State.planAgent, State.pending, hirq, hl, hb]

/-- A command on a port with nothing pending is next, also where a drain has found no byte any more (44_portdriver.md
R216). -/
theorem State.plan_cmd_noDrain (hpar : s.par.ok = true) (hin : s.inputs = .cmd port w beats :: rest)
    (ha : hasAgent s.par.kind port.agent = true) (hd : s.laneI.todo = [] ∨ s.per.hasRx = false)
    (hl : (s.lane port.agent).todo = []) (hb : beats.length = beatCount w) :
    s.plan = .run (.cmd w beats) { s.noDrain with inputs := rest, actor := port.agent } := by
  rw [State.plan_of_agent hpar hin rfl ha, State.endDrain_noDrain hd]
  exact State.planAgent_cmd rfl (by rwa [State.noDrain_lane port.agent_ne_irq]) hb

theorem step_of_plan_run {f : Frame} (h : s.plan = .run f t) (hi : decode f = .ok i) : step s = exec i t := by
  unfold step
  rw [h]
  simp only [hi]

theorem step_of_plan_illegal {f : Frame} {e : DecodeError} (h : s.plan = .run f t) (he : decode f = .error e) :
    step s = .next t.illegalWord := by
  unfold step
  rw [h]
  simp only [he]

theorem State.illegalWord_eq (s : State) : s.illegalWord = s.refuse (if s.fault then .fault else .illegal) := by
  unfold State.illegalWord
  split <;> rfl

/-- The agent that runs an event (44_portdriver.md R225). -/
def eventAgent (i : Instr) : Agent := if i = .evTask then .h else .irq

/-- A strobe raised alone is the one served first, by the agent of its event (30_encoding.md R91, 60_exceptions.md R248). -/
theorem strobe_of_decode (h : decode (.ev v) = .ok i) (txFirst : Bool) :
    pickStrobe v txFirst = v ∧ (Input.ev v txFirst).agent = some (eventAgent i) := by
  have henc := encode_of_decode h
  cases i with
  | evRxirq | evTxirq | evTask =>
    cases henc
    cases txFirst <;> exact ⟨rfl, rfl⟩
  | _ => cases henc

/-- A strobe raised alone is next where its agent has nothing pending: for an interrupt, once no drain goes on. -/
theorem State.plan_strobe (hpar : s.par.ok = true) (hk : s.par.kind = .portEngine)
    (hin : s.inputs = .ev v txFirst :: rest) (hd : s.laneI.todo = [] ∨ s.per.hasRx = false)
    (hi : decode (.ev v) = .ok i) (hl : i = .evTask → s.laneH.todo = []) :
    s.plan = .run (.ev v) { s.noDrain with inputs := rest, actor := eventAgent i } := by
  obtain ⟨hpick, hagent⟩ := strobe_of_decode hi txFirst
  have hhas : hasAgent s.par.kind (eventAgent i) = true := by
    rw [hk, eventAgent]
    split <;> rfl
  have hidle : (s.noDrain.lane (eventAgent i)).todo = [] := by
    unfold eventAgent
    split
    · exact hl ‹_›
    · rfl
  rw [State.plan_of_agent hpar hin hagent hhas, State.endDrain_noDrain hd, State.planAgent_strobe rfl hidle, hpick,
    if_pos rfl]

end Runs

/-- Settles O10: the plan of a command, or of a strobe raised alone, is to run it. -/
theorem stepRunsDecoded : Obligations.StepRunsDecoded := by
  unfold Obligations.StepRunsDecoded
  refine ⟨fun s port w beats rest i hpar hin ha hd hl hi => ?_, fun s i v txFirst rest hpar hk hin hd hi hl => ?_⟩
  · exact step_of_plan_run (State.plan_cmd_noDrain hpar hin ha hd hl (decode_cmd_ok hi).1) hi
  · exact step_of_plan_run (State.plan_strobe hpar hk hin hd hi hl) hi

/-- Settles O11: the plan is that of an operation, and the decoder refuses the word. -/
theorem illegalWords : Obligations.IllegalWords := by
  unfold Obligations.IllegalWords
  intro s port w beats rest e hpar hin ha hd hl hb he
  rw [step_of_plan_illegal (State.plan_cmd_noDrain hpar hin ha hd hl hb) he, State.illegalWord_eq]
  rfl

end Sys2Proof.Machine

/-! ## Entry checks -/

namespace Sys2Proof.Machine

section EntryChecks

variable {s : State} {i : Instr} {side : Side} {b : BufSel} {st : Status} {body : Result}

/-- Which side each port owns (60_exceptions.md R251, 44_portdriver.md R224). -/
theorem portAccepts_iff :
    (portAccepts .bufferEngine .p side b = true ↔ side = .put ∨ side = .either) ∧
      (portAccepts .bufferEngine .g side b = true ↔ side = .get ∨ side = .either) ∧
      (portAccepts .portEngine .h side b = true ↔
        side = .either ∨ side = .host ∨ (side = .put ∧ b = .tx) ∨ (side = .get ∧ b = .rx)) := by
  cases side <;> simp [portAccepts]

/-! ### The first check that fails (30_encoding.md R90) -/

theorem State.portRefusal_fault (hf : s.fault = true) : s.portRefusal side b = some .fault := by
  simp [State.portRefusal, hf]

theorem State.portRefusal_illegal (hf : s.fault = false) (hk : s.par.kind = .bufferEngine)
    (h : b = .rx ∨ side = .host) : s.portRefusal side b = some .illegal := by
  simp [State.portRefusal, hf, illegalHere, hk, h]

theorem State.portRefusal_wrongctx (hf : s.fault = false) (hk : s.par.kind = .bufferEngine → b = .tx ∧ side ≠ .host)
    (hp : portAccepts s.par.kind s.actor side b = false) : s.portRefusal side b = some .wrongctx := by
  have hlegal : illegalHere s.par.kind side b = false := by
    cases hkind : s.par.kind with
    | portEngine => rfl
    | bufferEngine =>
      obtain ⟨rfl, hside⟩ := hk hkind
      simp [illegalHere, hside]
  simp [State.portRefusal, hf, hlegal, hp]

theorem State.command_refused (h : s.portRefusal side b = some st) : s.command side b body = .next (s.refuse st) := by
  simp [State.command, State.entryRefusal, h]

theorem State.commandAnytime_refused (h : s.portRefusal side b = some st) :
    s.commandAnytime side b body = .next (s.refuse st) := by
  simp [State.commandAnytime, h]

theorem State.command_uninit (h : s.accepts side b) (hc : (s.buf b).cap = 0) :
    s.command side b body = .next (s.refuse .uninit) := by
  simp [State.command, State.entryRefusal, State.portRefusal_accepts h, hc]

/-! ### Every command begins with them -/

/-- The operations without the check `UNINIT`: `INIT`, `PD_STATUS`, `PD_CLRERR` (30_encoding.md R90 (4)). -/
def exempt : Instr → Bool
  | .init .. | .pdStatus | .pdClrerr => true
  | _ => false

theorem exec_exempt (h : exempt i = true) : ∃ body, exec i s = s.commandAnytime (sideOf i) (bufOf i) body := by
  cases i with
  | init | pdStatus | pdClrerr => exact ⟨_, rfl⟩
  | _ => cases h

theorem exec_command (hi : sideOf i ≠ .event) (h : exempt i = false) :
    ∃ body, exec i s = s.command (sideOf i) (bufOf i) body := by
  cases i with
  | init | pdStatus | pdClrerr => cases h
  | evRxirq | evTxirq | evTask => exact absurd rfl hi
  | _ => exact ⟨_, rfl⟩

theorem exec_of_portRefusal (hi : sideOf i ≠ .event) (h : s.portRefusal (sideOf i) (bufOf i) = some st) :
    exec i s = .next (s.refuse st) := by
  cases he : exempt i with
  | true =>
    obtain ⟨body, hexec⟩ := exec_exempt (s := s) he
    rw [hexec, State.commandAnytime_refused h]
  | false =>
    obtain ⟨body, hexec⟩ := exec_command (s := s) hi he
    rw [hexec, State.command_refused h]

theorem exec_uninit (hi : sideOf i ≠ .event) (he : exempt i = false) (ha : s.accepts (sideOf i) (bufOf i))
    (hc : (s.buf (bufOf i)).cap = 0) : exec i s = .next (s.refuse .uninit) := by
  obtain ⟨body, hexec⟩ := exec_command (s := s) hi he
  rw [hexec, State.command_uninit ha hc]

theorem exempt_eq_false (hinit : ∀ b cap typ fmt, i ≠ .init b cap typ fmt) (hstatus : i ≠ .pdStatus)
    (hclrerr : i ≠ .pdClrerr) : exempt i = false := by
  cases i with
  | init b cap typ fmt => exact absurd rfl (hinit b cap typ fmt)
  | pdStatus => exact absurd rfl hstatus
  | pdClrerr => exact absurd rfl hclrerr
  | _ => rfl

end EntryChecks

/-- Settles O14: every command begins with the checks, in the order of `portRefusal` and `entryRefusal`. -/
theorem entryChecks : Obligations.EntryChecks := by
  unfold Obligations.EntryChecks
  refine ⟨⟨fun _ _ => portAccepts_iff.1, fun _ _ => portAccepts_iff.2.1, fun _ _ => portAccepts_iff.2.2⟩,
    fun i s hi => ⟨fun hf => ?_, fun hf hk h => ?_, fun hf hk hp => ?_, fun ha hc hinit hstatus hclrerr => ?_⟩⟩
  · exact exec_of_portRefusal hi (State.portRefusal_fault hf)
  · exact exec_of_portRefusal hi (State.portRefusal_illegal hf hk h)
  · exact exec_of_portRefusal hi (State.portRefusal_wrongctx hf hk hp)
  · exact exec_uninit hi (exempt_eq_false hinit hstatus hclrerr) ha hc

end Sys2Proof.Machine

/-! ## The words that the encoder writes -/

namespace Sys2Proof

section CommandWords

variable {op : BitVec 8} {b : BufSel} {m : Word} {i : Instr}

/-- A command word as its shifted fields, joined (30_encoding.md R80). -/
theorem assemble_eq_or (op : BitVec 8) (b : BufSel) (aux : BitVec 7) (arg : Half) :
    assemble op b aux arg = op.setWidth 32 <<< 24 ||| b.word ||| aux.setWidth 32 <<< 16 ||| arg.setWidth 32 := by
  have hbuf : b.bit.setWidth 32 <<< 23 = b.word := by cases b <;> rfl
  rw [← hbuf]
  exact (BitVec.setWidth_eq _).symm.trans BitVec.setWidth_append_append_append_eq_shiftLeft_setWidth_or

/-! The rows of 30_encoding.md R87, `m` being the `match` of the row. -/

theorem assemble_half (hm : op.setWidth 32 <<< 24 = m) (n : Half) :
    assemble op b 0#7 n = m ||| b.word ||| n.setWidth 32 := by
  rw [assemble_eq_or, hm, BitVec.setWidth_zero, BitVec.zero_shiftLeft, BitVec.or_zero]

/-- The operands of `INIT` (30_encoding.md R85). -/
theorem assemble_init (hm : op.setWidth 32 <<< 24 = m) (cap : Half) (typ : BitVec 2) (fmt : BitVec 3) :
    assemble op b (0#2 ++ fmt ++ typ) cap =
      m ||| b.word ||| fmt.setWidth 32 <<< 18 ||| typ.setWidth 32 <<< 16 ||| cap.setWidth 32 := by
  have haux : (0#2 ++ fmt ++ typ).setWidth 32 <<< 16 = fmt.setWidth 32 <<< 18 ||| typ.setWidth 32 <<< 16 := by
    rw [BitVec.setWidth_append_append_eq_shiftLeft_setWidth_or, BitVec.setWidth_zero, BitVec.zero_shiftLeft,
      BitVec.zero_or, BitVec.shiftLeft_or_distrib, ← BitVec.shiftLeft_add]
  rw [assemble_eq_or, hm, haux, ← BitVec.or_assoc (m ||| b.word)]

theorem encode_half {n : Half} (hi : encode i = .cmd (assemble op b 0#7 n) []) (hm : op.setWidth 32 <<< 24 = m) :
    encode i = .cmd (m ||| b.word ||| n.setWidth 32) [] := by
  rw [hi, assemble_half hm]

theorem encode_byte {v : Byte} (hi : encode i = .cmd (assemble op b 0#7 (0#8 ++ v)) [])
    (hm : op.setWidth 32 <<< 24 = m) : encode i = .cmd (m ||| b.word ||| v.setWidth 32) [] := by
  rw [encode_half hi hm, BitVec.setWidth_append_eq_shiftLeft_setWidth_or, BitVec.setWidth_zero, BitVec.zero_shiftLeft,
    BitVec.zero_or]

theorem encode_plain (hi : encode i = .cmd (assemble op b 0#7 0#16) []) (hm : op.setWidth 32 <<< 24 = m) :
    encode i = .cmd (m ||| b.word) [] := by
  rw [encode_half hi hm, BitVec.setWidth_zero, BitVec.or_zero]

end CommandWords

end Sys2Proof

/-! ## RingStore: the queries -/

namespace Sys2Proof.Machine

section RingArithmetic

variable {q : Buffer}

theorem Buffer.isFull_eq_false_iff (q : Buffer) : q.isFull = false ↔ q.inc q.put.toNat ≠ q.get.toNat :=
  beq_eq_false_iff_ne

theorem Buffer.isEmpty_iff_count (hg : q.get.toNat < q.cap.toNat) : q.isEmpty = true ↔ q.count = 0 := by
  rw [Buffer.isEmpty_iff]
  unfold Buffer.count
  split <;> omega

theorem Buffer.count_lt_cap (hp : q.put.toNat < q.cap.toNat) (hg : q.get.toNat < q.cap.toNat) :
    q.count < q.cap.toNat := by
  unfold Buffer.count
  split <;> omega

/-- `(put − get) mod cap`, over the integers (00_scope.md R8). -/
theorem Buffer.count_eq_emod (hp : q.put.toNat < q.cap.toNat) (hg : q.get.toNat < q.cap.toNat) :
    (q.count : Int) = ((q.put.toNat : Int) - q.get.toNat) % q.cap.toNat := by
  unfold Buffer.count
  split
  · rw [Int.emod_eq_of_lt (by omega) (by omega)]
    omega
  · rw [← Int.add_emod_right, Int.emod_eq_of_lt (by omega) (by omega)]
    omega

/-- The readable run ends at `put` or at the physical end (40_ringstore.md R124). -/
theorem Buffer.readSpan_eq_min (hp : q.put.toNat < q.cap.toNat) (hg : q.get.toNat < q.cap.toNat) :
    q.readSpan = min (q.cap.toNat - q.get.toNat) q.count := by
  unfold Buffer.readSpan Buffer.count
  split <;> omega

/-- The writable run ends at the physical end, or one byte earlier where that byte would make the buffer appear empty
(40_ringstore.md R125). -/
theorem Buffer.writeSpan_eq_min (hp : q.put.toNat < q.cap.toNat) (hg : q.get.toNat < q.cap.toNat) :
    q.writeSpan = min (q.cap.toNat - q.put.toNat) q.free := by
  unfold Buffer.writeSpan Buffer.tailSpan Buffer.free Buffer.count
  split
  · split <;> omega
  · omega

/-- `WSPAN`'s length as R125 writes it, with the register `get` compared to 0. -/
theorem Buffer.writeSpan_eq (q : Buffer) :
    q.writeSpan = if q.get.toNat ≤ q.put.toNat then q.cap.toNat - q.put.toNat - (if q.get = 0 then 1 else 0)
      else q.get.toNat - q.put.toNat - 1 := by
  have hzero : q.get.toNat = 0 ↔ q.get = 0 := BitVec.toNat_inj (y := 0#16)
  unfold Buffer.writeSpan Buffer.tailSpan
  simp only [hzero]

/-- With capacity 1 both offsets are 0 (40_ringstore.md R131). -/
theorem Buffer.offsets_of_cap_one (ho : q.offsetsOk) (hc : q.cap = 1) :
    q.cap.toNat = 1 ∧ q.put.toNat = 0 ∧ q.get.toNat = 0 := by
  have hcap : q.cap.toNat = 1 := congrArg BitVec.toNat hc
  obtain ⟨hp, hg⟩ := ho.1 (by rw [hc]; decide)
  omega

theorem Buffer.flags_of_cap_one (ho : q.offsetsOk) (hc : q.cap = 1) :
    q.isEmpty = true ∧ q.isFull = true ∧ q.count = 0 ∧ q.free = 0 ∧ q.writeSpan = 0 ∧ q.readSpan = 0 := by
  obtain ⟨hcap, hput, hget⟩ := Buffer.offsets_of_cap_one ho hc
  refine ⟨?_, ?_, ?_, ?_, ?_, ?_⟩
  · rw [Buffer.isEmpty_iff, hput, hget]
  · rw [Buffer.isFull_iff, hput, hget, Buffer.inc, hcap]
  · simp [Buffer.count, hput, hget]
  · simp [Buffer.free, hcap]
  · simp [Buffer.writeSpan, Buffer.tailSpan, hcap, hput, hget]
  · simp [Buffer.readSpan, hput, hget]

end RingArithmetic

section Queries

variable {s : State} {b : BufSel}

theorem toNat_eq_ite_of_iff {c : Bool} {p : Prop} [Decidable p] (h : c = true ↔ p) : c.toNat = if p then 1 else 0 := by
  simp only [← h]
  cases c <;> rfl

theorem execIsempty_eq (hr : s.ready .either b) :
    execIsempty b s = .next (s.ret .none (s.buf b).isEmpty.toNat 0) := State.command_ready hr

theorem execIsfull_eq (hr : s.ready .either b) :
    execIsfull b s = .next (s.ret .none (s.buf b).isFull.toNat 0) := State.command_ready hr

theorem execCount_eq (hr : s.ready .either b) : execCount b s = .next (s.ret .none (s.buf b).count 0) := by
  rw [execCount_answers hr, Buffer.held_length]

theorem execFree_eq (hr : s.ready .either b) : execFree b s = .next (s.ret .none (s.buf b).free 0) :=
  State.command_ready hr

theorem execWspan_eq (hr : s.ready .put b) :
    execWspan b s = .next (s.ret .none (s.buf b).put.toNat (s.buf b).writeSpan) := State.command_ready hr

theorem execRspan_eq (hr : s.ready .get b) :
    execRspan b s = .next (s.ret .none (s.buf b).get.toNat (s.buf b).readSpan) := State.command_ready hr

theorem execGeterr_eq (hr : s.ready .either b) :
    execGeterr b s = .next (s.ret .none (if (s.buf b).err then 1 else 0) 0) := by
  rw [← toNat_eq_ite_of_iff Iff.rfl]
  exact State.command_ready hr

theorem execClrerr_eq (hr : s.ready .either b) :
    execClrerr b s = .next ((s.setBuf b { s.buf b with err := false }).ret .none 0 0) := State.command_ready hr

end Queries

/-- Settles O20: both spans are the distance to the physical end, or what the buffer allows if that is less. -/
theorem spanRules : Obligations.SpanRules := by
  unfold Obligations.SpanRules
  refine ⟨⟨fun b => encode_plain rfl rfl, fun b s hr ho => ?_⟩, fun b => encode_plain rfl rfl, fun b s hr ho => ?_⟩
  · obtain ⟨hp, hg⟩ := ho.1 hr.2
    dsimp only
    rw [← Buffer.writeSpan_eq]
    exact ⟨execWspan_eq hr, Buffer.writeSpan_eq_min hp hg⟩
  · obtain ⟨hp, hg⟩ := ho.1 hr.2
    exact ⟨execRspan_eq hr, Buffer.readSpan_eq_min hp hg⟩

/-- Settles O25: `count` is below `cap`, so that `count + free + 1 = cap`. -/
theorem fullLaw : Obligations.FullLaw := by
  unfold Obligations.FullLaw
  intro q ho hc
  obtain ⟨hp, hg⟩ := ho.1 hc
  have hcount := Buffer.count_lt_cap hp hg
  have hfull := Buffer.isFull_iff_free hp hg
  have hfree : q.free = q.cap.toNat - 1 - q.count := rfl
  refine ⟨hfull, hfull.trans ?_, Buffer.isEmpty_iff_count hg, ?_, Buffer.count_eq_emod hp hg, hfree⟩
  · omega
  · omega

/-- Settles O16. -/
theorem countQueries : Obligations.CountQueries := by
  unfold Obligations.CountQueries
  refine ⟨fun b => ⟨encode_plain rfl rfl, encode_plain rfl rfl, encode_plain rfl rfl, encode_plain rfl rfl⟩,
    fun b s hr ho => ?_⟩
  obtain ⟨hp, hg⟩ := ho.1 hr.2
  refine ⟨?_, ?_, execCount_eq hr, execFree_eq hr, Nat.le_sub_one_of_lt (Buffer.count_lt_cap hp hg)⟩
  · exact (execIsempty_eq hr).trans (by rw [toNat_eq_ite_of_iff (s.buf b).isEmpty_iff])
  · exact (execIsfull_eq hr).trans (by rw [toNat_eq_ite_of_iff (s.buf b).isFull_iff, Buffer.inc])

/-- Settles O17. -/
theorem errorFlagOps : Obligations.ErrorFlagOps := by
  unfold Obligations.ErrorFlagOps
  exact ⟨fun b => ⟨encode_plain rfl rfl, encode_plain rfl rfl⟩, fun b s hr => ⟨execGeterr_eq hr, execClrerr_eq hr⟩⟩

end Sys2Proof.Machine

/-! ## RingStore: the put side -/

namespace Sys2Proof.Machine

section Puts

variable {s : State} {b : BufSel} {v : Byte}

theorem State.refuse_answer (s : State) (st : Status) : (s.refuse st).answer = some ⟨st, .none, 0, 0⟩ := by
  unfold State.answer
  rw [State.refuse_actor, State.refuse_out]

theorem execPutb_busy (hr : s.ready .put b) (hs : (s.buf b).shv = true) : execPutb b v s = .next (s.refuse .busy) := by
  unfold execPutb
  rw [State.command_ready hr, if_pos hs]

theorem execPutb_full (hr : s.ready .put b) (hs : (s.buf b).shv = false) (hfull : (s.buf b).isFull = true) :
    execPutb b v s = .next ((s.setBuf b { s.buf b with err := true }).raise .nospace 0 0) := by
  unfold execPutb
  rw [State.command_ready hr, if_neg (Bool.eq_false_iff.1 hs), if_pos hfull]
  rfl

theorem execPutb_stores (hr : s.ready .put b) (ho : (s.buf b).offsetsOk) (hs : (s.buf b).shv = false)
    (hfull : (s.buf b).isFull = false) :
    execPutb b v s = .next ((s.setBuf b { s.buf b with
      store := Memory.write (s.buf b).store (s.buf b).put.toNat v
      put := half ((s.buf b).inc (s.buf b).put.toNat) }).ret .none 1 0) := by
  unfold execPutb
  rw [State.command_ready hr, if_neg (Bool.eq_false_iff.1 hs), if_neg (Bool.eq_false_iff.1 hfull),
    State.withPut_below (ho.1 hr.2).1]

/-- `PUTBU` differs from `PUTB` on a full buffer only (40_ringstore.md R119). -/
theorem execPutbu_eq_execPutb (hfull : (s.buf b).isFull = false) : execPutbu b v s = execPutb b v s := by
  unfold execPutbu execPutb
  rw [if_neg (Bool.eq_false_iff.1 hfull), if_neg (Bool.eq_false_iff.1 hfull)]

theorem execPutbu_busy (hr : s.ready .put b) (hs : (s.buf b).shv = true) :
    execPutbu b v s = .next (s.refuse .busy) := by
  unfold execPutbu
  rw [State.command_ready hr, if_pos hs]

theorem execPutbu_full (hr : s.ready .put b) (hs : (s.buf b).shv = false) (hfull : (s.buf b).isFull = true) :
    execPutbu b v s = .next (s.latchFault.refuse .fault) := by
  unfold execPutbu
  rw [State.command_ready hr, if_neg (Bool.eq_false_iff.1 hs), if_pos hfull]

@[simp] theorem Lane.drop_todo (l : Lane) : l.drop.todo = [] := by
  unfold Lane.drop
  split
  · assumption
  · rfl

/-- The fault latch drops every pending micro-step (60_exceptions.md R244). -/
@[simp] theorem State.latchFault_todo (s : State) (a : Agent) : (s.latchFault.lane a).todo = [] := by
  cases a with
  | p => exact s.laneP.drop_todo
  | g => exact s.laneG.drop_todo
  | h => exact s.laneH.drop_todo
  | irq => rfl

end Puts

/-- Settles O18: the cases are the checks of R118 in their order. -/
theorem putbRule : Obligations.PutbRule := by
  unfold Obligations.PutbRule
  refine ⟨fun b v => encode_byte rfl rfl, fun b v s hr ho => ?_⟩
  dsimp only
  split
  · exact execPutb_busy hr ‹_›
  have hs : (s.buf b).shv = false := Bool.eq_false_iff.2 ‹_›
  split
  · exact execPutb_full hr hs ((s.buf b).isFull_iff.2 ‹_›)
  · exact execPutb_stores hr ho hs ((s.buf b).isFull_eq_false_iff.2 ‹_›)

/-- Settles O19: with space `PUTBU` is `PUTB`; on a full buffer the state is the latched one. -/
theorem putbuRule : Obligations.PutbuRule := by
  unfold Obligations.PutbuRule
  refine ⟨fun b v => encode_byte rfl rfl, fun b v s hr ho => ⟨execPutbu_busy hr, fun hs hspace => ?_,
    fun hs hfull => ⟨_, execPutbu_full hr hs ((s.buf b).isFull_iff.2 hfull), ?_⟩⟩⟩
  · have hfull := (s.buf b).isFull_eq_false_iff.2 hspace
    have heq : exec (.putbu b v) s = exec (.putb b v) s := execPutbu_eq_execPutb hfull
    exact ⟨heq.trans (execPutb_stores hr ho hs hfull), heq⟩
  · obtain ⟨-, -, -, -, -, hpstate, hdeadline, htoErr, hper, -⟩ := latchFault_keeps s b
    exact ⟨State.refuse_fault _ _, State.refuse_answer _ _, State.refuse_tx _ _, State.refuse_rx _ _, hpstate, hdeadline,
      htoErr, hper, by simp⟩

end Sys2Proof.Machine

/-! ## RingStore: the get side -/

namespace Sys2Proof.Machine

open Sys2Proof.Config

section Gets

variable {s : State} {b : BufSel}

@[simp] theorem State.afterRead_buf (s : State) (b c : BufSel) (off : Nat) : (s.afterRead b off).buf c = s.buf c := by
  rw [State.afterRead_eq_ite]
  cases c <;> rfl

theorem execGetb_nodata (hr : s.ready .get b) (he : (s.buf b).isEmpty = true) :
    execGetb b s = .next (s.refuse .nodata) := by
  unfold execGetb
  rw [State.command_ready hr, if_pos he]

theorem execGetb_takes_oldest (hr : s.ready .get b) (ho : (s.buf b).offsetsOk) (he : (s.buf b).isEmpty = false) :
    execGetb b s = .next (((s.afterRead b (s.buf b).get.toNat).setBuf b { s.buf b with
      get := half ((s.buf b).inc (s.buf b).get.toNat) }).ret .none (s.byteAt b (s.buf b).get.toNat).toNat 0) := by
  unfold execGetb
  rw [State.command_ready hr, if_neg (Bool.eq_false_iff.1 he), State.withByte_below (ho.1 hr.2).2]
  simp only [State.setGet, State.afterRead_buf]

theorem State.peekAt_eq (hcap : (s.buf b).cap ≠ 0) (k : Nat) :
    s.peekAt b k = .next (if (s.buf b).count ≤ k then s.refuse .nodata
      else (s.afterRead b ((s.buf b).add (s.buf b).get.toNat k)).ret .none
        (s.byteAt b ((s.buf b).add (s.buf b).get.toNat k)).toNat 0) := by
  unfold State.peekAt
  rw [State.withByte_below (Buffer.add_lt (Buffer.cap_pos hcap)), apply_ite Host.Outcome.next]

theorem execPeekat_eq (hr : s.ready .get b) (k : Half) : execPeekat b k s = s.peekAt b k.toNat :=
  State.command_ready hr

/-- `PEEKB` is `PEEKAT 0` (40_ringstore.md R121): distance 0 is `get` itself, and nothing is held there only if the buffer is
empty. -/
theorem execPeekb_eq (hr : s.ready .get b) (ho : (s.buf b).offsetsOk) :
    execPeekb b s = .next (if (s.buf b).put = (s.buf b).get then s.refuse .nodata
      else (s.afterRead b (s.buf b).get.toNat).ret .none (s.byteAt b (s.buf b).get.toNat).toNat 0) := by
  obtain ⟨-, hg⟩ := ho.1 hr.2
  have hadd : (s.buf b).add (s.buf b).get.toNat 0 = (s.buf b).get.toNat := Nat.mod_eq_of_lt hg
  have hempty : (s.buf b).count ≤ 0 ↔ (s.buf b).put = (s.buf b).get := by
    rw [Nat.le_zero, ← Buffer.isEmpty_iff_count hg, Buffer.isEmpty_iff, BitVec.toNat_inj]
  unfold execPeekb
  rw [State.command_ready hr, State.peekAt_eq hr.2, hadd]
  simp only [hempty]

theorem execRemove_eq (hr : s.ready .get b) (n : Half) :
    execRemove b n s = .next (if (s.buf b).count < n.toNat then s.refuse .nodata
      else (s.setGet b ((s.buf b).add (s.buf b).get.toNat n.toNat)).ret .none n.toNat 0) := by
  unfold execRemove
  rw [State.command_ready hr, apply_ite Host.Outcome.next]

/-! ### Direct reads -/

theorem execDrd_eq (hr : s.ready .get b) (off : Half) :
    execDrd b off s = .next (if (s.buf b).cap.toNat ≤ off.toNat then s.refuse .range
      else (s.afterRead b off.toNat).ret .none (s.byteAt b off.toNat).toNat 0) := by
  unfold execDrd
  rw [State.command_ready hr]
  split
  · rfl
  · rw [State.withByte_below (Nat.not_le.1 ‹_›)]

theorem execDrd_written {off : Half} {v : Byte} (hr : s.ready .get b) (hoff : off.toNat < (s.buf b).cap.toNat)
    (hv : Memory.read (s.buf b).store off.toNat = some v) : execDrd b off s = .next (s.ret .none v.toNat 0) := by
  obtain ⟨hbyte, hafter⟩ := State.read_written hv
  rw [execDrd_eq hr, if_neg (Nat.not_le.2 hoff), hbyte, hafter]

theorem execDrd_unwritten {off : Half} (hr : s.ready .get b) (hoff : off.toNat < (s.buf b).cap.toNat)
    (hv : Memory.read (s.buf b).store off.toNat = none) :
    execDrd b off s = .next (State.ret .none (freeByte s.draws).toNat 0 { s with draws := s.draws + 1 }) := by
  obtain ⟨hbyte, hafter⟩ := State.read_unwritten hv
  rw [execDrd_eq hr, if_neg (Nat.not_le.2 hoff), hbyte, hafter]

theorem State.ret_answer (s : State) (kind : Kind) (m n : Nat) :
    (s.ret kind m n).answer = some ⟨.ok, kind, half m, half n⟩ := by
  unfold State.answer
  rw [State.ret_actor, State.ret_out]

/-- An answer and a draw do not change which commands pass the entry checks. -/
theorem State.ready_ret_draws {side : Side} {kind : Kind} {m n d : Nat} :
    (State.ret kind m n { s with draws := d }).ready side b ↔ s.ready side b := by
  simp only [State.ready, State.accepts, State.ret_fault, State.ret_par, State.ret_actor, State.ret_buf, State.draws_buf]

/-- Of two answers on a port the second stands. -/
theorem State.ret_ret_draws (s : State) (kind : Kind) (m n d e x y : Nat) :
    State.ret kind m n { State.ret kind x y { s with draws := d } with draws := e } =
      State.ret kind m n { s with draws := e } := by
  unfold State.ret State.respond
  cases s.actor <;> rfl

theorem execTrace_pair {i j : Instr} {t u : State} (hi : exec i s = .next t) (hj : exec j t = .next u) :
    execTrace [i, j] s = some ([t.answer, u.answer], u) := by
  simp [execTrace, hi, hj]

/-- Two reads of a byte that nothing has written are two draws (20_memory.md R66). -/
theorem execTrace_drd_unwritten {off : Half} (hr : s.ready .get b) (hoff : off.toNat < (s.buf b).cap.toNat)
    (hv : Memory.read (s.buf b).store off.toNat = none) :
    execTrace [.drd b off, .drd b off] s =
      some ([some ⟨.ok, .none, half (freeByte s.draws).toNat, 0⟩,
          some ⟨.ok, .none, half (freeByte (s.draws + 1)).toNat, 0⟩],
        State.ret .none (freeByte (s.draws + 1)).toNat 0 { s with draws := s.draws + 2 }) := by
  generalize ht : State.ret .none (freeByte s.draws).toNat 0 { s with draws := s.draws + 1 } = t
  have hbuf : t.buf b = s.buf b := by rw [← ht, State.ret_buf, State.draws_buf]
  have hdraws : t.draws = s.draws + 1 := by rw [← ht, State.ret_draws]
  have hready : t.ready .get b := ht ▸ State.ready_ret_draws.2 hr
  have hfirst : exec (.drd b off) s = .next t := ht ▸ execDrd_unwritten hr hoff hv
  have hsecond : exec (.drd b off) t = _ := execDrd_unwritten hready (hbuf ▸ hoff) (hbuf ▸ hv)
  rw [execTrace_pair hfirst hsecond, State.ret_answer, hdraws, ← ht, State.ret_answer, State.ret_ret_draws]
  rfl

end Gets

/-- Settles O26: the flags and spans of capacity 1, put into what each operation answers. -/
theorem capacityOne : Obligations.CapacityOne := by
  unfold Obligations.CapacityOne
  intro b s ho hc
  obtain ⟨-, hput, hget⟩ := Buffer.offsets_of_cap_one ho hc
  obtain ⟨hempty, hfull, hcount, hfree, hwrite, hread⟩ := Buffer.flags_of_cap_one ho hc
  refine ⟨fun hr => ⟨?_, ?_, ?_, ?_⟩, fun hr => ⟨?_, fun hs v => execPutb_full hr hs hfull⟩,
    fun hr => ⟨?_, execGetb_nodata hr hempty⟩⟩
  · exact (execIsempty_eq hr).trans (by rw [hempty]; rfl)
  · exact (execIsfull_eq hr).trans (by rw [hfull]; rfl)
  · exact (execCount_eq hr).trans (by rw [hcount])
  · exact (execFree_eq hr).trans (by rw [hfree])
  · exact (execWspan_eq hr).trans (by rw [hput, hwrite])
  · exact (execRspan_eq hr).trans (by rw [hget, hread])

/-- Settles O21. -/
theorem getbRule : Obligations.GetbRule := by
  unfold Obligations.GetbRule
  refine ⟨fun b => encode_plain rfl rfl, fun b s hr ho => ?_⟩
  dsimp only
  split
  · exact execGetb_nodata hr (beq_iff_eq.2 ‹_›)
  · exact execGetb_takes_oldest hr ho (beq_eq_false_iff_ne.2 ‹_›)

/-- Settles O22: both operations are `peekAt`. -/
theorem peekRule : Obligations.PeekRule := by
  unfold Obligations.PeekRule
  exact ⟨fun b k => ⟨encode_plain rfl rfl, encode_half rfl rfl⟩,
    fun b k s hr ho => ⟨(execPeekat_eq hr k).trans (State.peekAt_eq hr.2 _), execPeekb_eq hr ho⟩⟩

/-- Settles O23. -/
theorem removeRule : Obligations.RemoveRule := by
  unfold Obligations.RemoveRule
  exact ⟨fun b n => encode_half rfl rfl, fun b n s hr => execRemove_eq hr n⟩

/-- Settles O24: a written byte leaves the draws alone, an unwritten one uses up a draw at each read. -/
theorem directReads : Obligations.DirectReads := by
  unfold Obligations.DirectReads
  exact ⟨⟨fun b off => encode_half rfl rfl, fun b off s hr => execDrd_eq hr off⟩,
    fun b off s hr hoff => ⟨fun v hv => execDrd_written hr hoff hv, execTrace_drd_unwritten hr hoff⟩⟩

end Sys2Proof.Machine

/-! ## RingStore: the configuration -/

namespace Sys2Proof.Machine

section InitOperation

variable {s : State} {b : BufSel} {cap : Half} {typ : BitVec 2} {fmt : BitVec 3}

theorem BufType.ofCode_eq_none_iff (typ : BitVec 2) : BufType.ofCode typ = none ↔ typ = 3 := by
  revert typ
  decide

theorem Format.ofCode_eq_none_iff (fmt : BitVec 3) : Format.ofCode fmt = Option.none ↔ 5 ≤ fmt.toNat := by
  revert fmt
  decide

theorem State.capAllowed_iff :
    s.capAllowed b cap = true ↔ cap ≠ 0 ∧ s.par.minCap ≤ cap.toNat ∧ cap.toNat ≤ (s.par.buf b).storeSize := by
  have hzero : cap.toNat = 0 ↔ cap = 0 := BitVec.toNat_inj (y := 0#16)
  simp only [State.capAllowed, decide_eq_true_iff, Ne, hzero]

theorem State.capAllowed_eq_false_iff :
    s.capAllowed b cap = false ↔ cap = 0 ∨ cap.toNat < s.par.minCap ∨ (s.par.buf b).storeSize < cap.toNat := by
  rw [← Bool.not_eq_true, State.capAllowed_iff]
  simp only [Classical.not_and_iff_not_or_not, not_not, Nat.not_le]

theorem State.pendingElsewhere_iff :
    s.pendingElsewhere b = true ↔ ∃ a, a ≠ s.actor ∧ ∃ m ∈ (s.lane a).todo, m.target = b := by
  have hall : ∀ a : Agent, a ∈ [Agent.p, .g, .h, .irq] := fun a => by cases a <;> decide
  simp only [State.pendingElsewhere, Lane.pendingOn, List.any_eq_true, hall, true_and, Bool.and_eq_true, bne_iff_ne,
    beq_iff_eq]

theorem execInit_range (ha : s.accepts .either b)
    (h : BufType.ofCode typ = none ∨ Format.ofCode fmt = Option.none ∨ s.capAllowed b cap = false) :
    execInit b cap typ fmt s = .next (s.refuse .range) := by
  unfold execInit
  rw [State.commandAnytime_accepts ha]
  split
  · rename_i t f ht hf
    have hcap : s.capAllowed b cap = false := by simpa [ht, hf] using h
    rw [hcap]
    rfl
  · rfl

/-- `INIT` with a configuration that R113 allows: another agent's pending micro-step decides. -/
theorem execInit_allowed {t : BufType} {f : Format} (ha : s.accepts .either b) (ht : BufType.ofCode typ = some t)
    (hf : Format.ofCode fmt = some f) (hcap : s.capAllowed b cap = true) :
    execInit b cap typ fmt s = .next (if s.pendingElsewhere b then s.refuse .busy
      else (s.setBuf b ((s.buf b).configured cap t f)).ret .none 0 0) := by
  unfold execInit
  rw [State.commandAnytime_accepts ha, ht, hf, apply_ite Host.Outcome.next]
  simp only [hcap]
  rfl

end InitOperation

/-- Settles O15. -/
theorem initRule : Obligations.InitRule := by
  unfold Obligations.InitRule
  refine ⟨fun b cap typ fmt => congrArg (Frame.cmd · []) (assemble_init rfl cap typ fmt),
    fun b cap typ fmt s ha => ⟨fun h => execInit_range ha ?_, fun t f ht hf h0 hmin hsize => ?_⟩⟩
  · rw [BufType.ofCode_eq_none_iff, Format.ofCode_eq_none_iff, State.capAllowed_eq_false_iff]
    exact h
  · have hexec : exec (.init b cap typ fmt) s = _ :=
      execInit_allowed ha ht hf (State.capAllowed_iff.2 ⟨h0, hmin, hsize⟩)
    refine ⟨fun hbusy => ?_, fun hfree => ?_⟩
    · rw [hexec, if_pos (State.pendingElsewhere_iff.2 hbusy)]
    · have hnone : ¬ s.pendingElsewhere b = true := by
        rw [State.pendingElsewhere_iff]
        rintro ⟨a, hne, m, hm, hb⟩
        exact hfree a hne m hm hb
      rw [hexec, if_neg hnone]
      rfl

end Sys2Proof.Machine

/-! ## ShadowCursor: the buffer of a transaction -/

namespace Sys2Proof.Machine

/-- The buffer after `SH_BEGIN` (41_shadow.md R151). -/
def Buffer.begun (q : Buffer) : Buffer := { q with cur := q.put, shv := true }

/-- The buffer after an accepted `SH_WRITE v` (41_shadow.md R152). -/
def Buffer.shadowWritten (q : Buffer) (v : Byte) : Buffer :=
  { q with store := Memory.write q.store q.cur.toNat v, cur := half (q.inc q.cur.toNat) }

/-- The buffer after `SH_COMMIT` (41_shadow.md R153): what the consumer would see if the transaction ended now. -/
def Buffer.committed (q : Buffer) : Buffer := { q with put := q.cur, shv := false }

/-- A transaction is open, and `n` more bytes fit behind its cursor. -/
structure Buffer.Transaction (q : Buffer) (n : Nat) : Prop where
  put_lt : q.put.toNat < q.cap.toNat
  get_lt : q.get.toNat < q.cap.toNat
  cur_lt : q.cur.toNat < q.cap.toNat
  isOpen : q.shv = true
  fits : q.shadowed + n ≤ q.free

section Transactions

variable {q : Buffer} {n : Nat}

theorem Buffer.Transaction.begun (hp : q.put.toNat < q.cap.toNat) (hg : q.get.toNat < q.cap.toNat) (hn : n ≤ q.free) :
    q.begun.Transaction n := by
  have hnone : q.begun.shadowed = 0 := by simp [Buffer.begun, Buffer.shadowed]
  exact ⟨hp, hg, hp, rfl, by rw [hnone, Nat.zero_add]; exact hn⟩

/-- A commit publishes the shadow bytes, no more and no fewer (41_shadow.md R153). -/
theorem Buffer.Transaction.committed_count (h : q.Transaction n) : q.committed.count = q.count + q.shadowed := by
  obtain ⟨hp, hg, hcur, -, hfits⟩ := h
  have hcount : q.committed.count = if q.get.toNat ≤ q.cur.toNat then q.cur.toNat - q.get.toNat
      else q.cur.toNat + q.cap.toNat - q.get.toNat := rfl
  rw [hcount]
  unfold Buffer.shadowed Buffer.free Buffer.count at *
  split at hfits <;> split at hfits <;> split <;> omega

/-- The held region stays clear of the cursor: `cur` is the `put` of the committed buffer, which holds what is held now. -/
theorem Buffer.Transaction.cur_not_holds (h : q.Transaction n) : ¬ q.holds q.cur.toNat := by
  rintro ⟨k, hk, hcur⟩
  have hk' : k < q.committed.count := by
    rw [h.committed_count]
    omega
  exact Buffer.put_not_held (q := q.committed) h.cur_lt h.get_lt ⟨k, hk', hcur⟩

/-- Where a byte fits, the space check of `SH_WRITE` passes: it is that of `PUTB` on the committed buffer (41_shadow.md R152). -/
theorem Buffer.Transaction.committed_not_full (h : q.Transaction (n + 1)) : q.committed.isFull = false := by
  have hfree : q.committed.free ≠ 0 := by
    have hfits := h.fits
    have hcount := h.committed_count
    have hcap : q.committed.cap = q.cap := rfl
    unfold Buffer.free at hfits ⊢
    rw [hcap]
    omega
  rw [← Bool.not_eq_true, Buffer.isFull_iff_free (q := q.committed) h.cur_lt h.get_lt]
  exact hfree

theorem Buffer.Transaction.shadowWritten (h : q.Transaction (n + 1)) (v : Byte) : (q.shadowWritten v).Transaction n := by
  obtain ⟨hp, hg, hcur, hopen, hfits⟩ := h
  have hpos : 0 < q.cap.toNat := by omega
  have hinc : (q.shadowWritten v).cur.toNat = q.inc q.cur.toNat := Buffer.half_inc hpos
  have hcount : (q.shadowWritten v).shadowed = q.shadowed + 1 := by
    have hnext := Buffer.inc_eq hcur
    have hput : (q.shadowWritten v).put = q.put := rfl
    have hcap : (q.shadowWritten v).cap = q.cap := rfl
    simp only [Buffer.shadowed, Buffer.free, Buffer.count, hinc, hput, hcap] at hfits ⊢
    split at hnext <;> split at hfits <;> split at hfits <;> split <;> omega
  have hfree : (q.shadowWritten v).free = q.free := rfl
  exact ⟨hp, hg, hinc ▸ Buffer.inc_lt hpos, hopen, by omega⟩

/-- A byte stored outside the held region is not seen (10_state.md R25). -/
theorem Buffer.held_write_of_not_holds {x : Nat} (h : ¬ q.holds x) (v : Byte) :
    Buffer.held { q with store := Memory.write q.store x v } = q.held :=
  List.map_congr_left fun k hk =>
    Memory.read_write_of_ne _ _ fun e => h ⟨k, List.mem_range.1 hk, e.symm⟩

/-- Before the commit the consumer sees nothing of a shadow byte (41_shadow.md R155). -/
theorem Buffer.Transaction.held_shadowWritten (h : q.Transaction n) (v : Byte) : (q.shadowWritten v).held = q.held :=
  Buffer.held_write_of_not_holds h.cur_not_holds v

/-- On the committed buffer an accepted `SH_WRITE` is a put. -/
theorem Buffer.Transaction.held_committed_shadowWritten (h : q.Transaction (n + 1)) (v : Byte) :
    (q.shadowWritten v).committed.held = q.committed.held ++ [some v] :=
  Buffer.held_put (q := q.committed) h.cur_lt h.get_lt h.committed_not_full v

/-- Any number of writes: what is held stays, what a commit would publish grows by them in write order. -/
theorem Buffer.Transaction.foldl_shadowWritten {vs : List Byte} (h : q.Transaction vs.length) :
    (vs.foldl Buffer.shadowWritten q).Transaction 0 ∧
      (vs.foldl Buffer.shadowWritten q).held = q.held ∧
      (vs.foldl Buffer.shadowWritten q).put = q.put ∧ (vs.foldl Buffer.shadowWritten q).get = q.get ∧
      (vs.foldl Buffer.shadowWritten q).committed.held = q.committed.held ++ vs.map some := by
  induction vs generalizing q with
  | nil => exact ⟨h, rfl, rfl, rfl, (List.append_nil _).symm⟩
  | cons v vs ih =>
    obtain ⟨hlast, hheld, hput, hget, hcommit⟩ := ih (h.shadowWritten v)
    refine ⟨hlast, hheld.trans (h.held_shadowWritten v), hput, hget, hcommit.trans ?_⟩
    rw [h.held_committed_shadowWritten v, List.append_assoc]
    rfl

/-- The number of bytes a commit publishes, from the bytes it publishes. -/
theorem Buffer.Transaction.count_of_held {r : Buffer} {vs : List Byte} (h : r.Transaction n) (hheld : r.held = q.held)
    (hcommit : r.committed.held = q.held ++ vs.map some) :
    r.committed.count = q.count + vs.length ∧ r.shadowed = vs.length := by
  have hkept : r.count = q.count := by rw [← Buffer.held_length, hheld, Buffer.held_length]
  have hcount : r.committed.count = q.count + vs.length := by
    rw [← Buffer.held_length, hcommit, List.length_append, List.length_map, Buffer.held_length]
  have hshadow := h.committed_count
  exact ⟨hcount, by omega⟩

end Transactions

end Sys2Proof.Machine

/-! ## ShadowCursor: the operations -/

namespace Sys2Proof.Machine

section ShadowOperations

variable {s : State} {b : BufSel} {v : Byte}

/-- A command whose first check refuses. -/
theorem State.command_first {side : Side} {c : Prop} [Decidable c] {r body : Result} (hr : s.ready side b) (hc : c) :
    s.command side b (if c then r else body) = r := by
  rw [State.command_ready hr, if_pos hc]

/-- A command whose first check passes and whose second one refuses. -/
theorem State.command_second {side : Side} {c d : Prop} [Decidable c] [Decidable d] {r r' body : Result}
    (hr : s.ready side b) (hc : ¬ c) (hd : d) : s.command side b (if c then r' else if d then r else body) = r := by
  rw [State.command_ready hr, if_neg hc, if_pos hd]

theorem execShBegin_eq (hr : s.ready .put b) :
    execShBegin b s = .next ((s.setBuf b (s.buf b).begun).ret .none (s.buf b).put.toNat 0) := State.command_ready hr

theorem execShWrite_notxn (hr : s.ready .put b) (hs : (s.buf b).shv = false) :
    execShWrite b v s = .next (s.refuse .notxn) := by
  unfold execShWrite
  rw [State.command_ready hr, hs]
  rfl

theorem execShWrite_full (hr : s.ready .put b) (hs : (s.buf b).shv = true)
    (hfull : (s.buf b).inc (s.buf b).cur.toNat = (s.buf b).get.toNat) :
    execShWrite b v s = .next ((s.setBuf b { s.buf b with err := true }).raise .nospace 0 0) := by
  unfold execShWrite
  rw [State.command_ready hr, if_neg (by simp [hs]), if_pos hfull]
  rfl

theorem execShWrite_stores (hr : s.ready .put b) (hs : (s.buf b).shv = true)
    (hcur : (s.buf b).cur.toNat < (s.buf b).cap.toNat) (hspace : (s.buf b).inc (s.buf b).cur.toNat ≠ (s.buf b).get.toNat) :
    execShWrite b v s = .next ((s.setBuf b ((s.buf b).shadowWritten v)).ret .none 1 0) := by
  unfold execShWrite
  rw [State.command_ready hr, if_neg (by simp [hs]), if_neg hspace, State.withWrite_below hcur]
  cases b <;> rfl

theorem execShCommit_notxn (hr : s.ready .put b) (hs : (s.buf b).shv = false) :
    execShCommit b s = .next (s.refuse .notxn) := by
  unfold execShCommit
  rw [State.command_ready hr, hs]
  rfl

theorem execShCommit_publishes (hr : s.ready .put b) (hs : (s.buf b).shv = true) :
    execShCommit b s =
      .next ((s.setBuf b (s.buf b).committed).ret .none (s.buf b).cur.toNat (s.buf b).shadowed) := by
  unfold execShCommit
  rw [State.command_ready hr, if_neg (by simp [hs])]
  rfl

/-- A change of a buffer that keeps its capacity does not change which commands on it pass the entry checks. -/
theorem State.ready_setBuf_ret {side : Side} {q : Buffer} {kind : Kind} {m n : Nat} (hcap : q.cap = (s.buf b).cap) :
    ((s.setBuf b q).ret kind m n).ready side b ↔ s.ready side b := by
  simp only [State.ready, State.accepts, State.ret_fault, State.ret_par, State.ret_actor, State.ret_buf,
    State.setBuf_fault, State.setBuf_par, State.setBuf_actor, State.buf_setBuf, hcap]

theorem execTrace_cons {i : Instr} {is : List Instr} {t u : State} {rs : List (Option Response)}
    (hi : exec i s = .next t) (his : execTrace is t = some (rs, u)) :
    execTrace (i :: is) s = some (t.answer :: rs, u) := by
  simp [execTrace, hi, his]

/-- Every write that fits is accepted, and the buffer takes the written bytes one after the other (41_shadow.md R152). -/
theorem execTrace_shWrite {vs : List Byte} (hr : s.ready .put b) (h : (s.buf b).Transaction vs.length) :
    ∃ t, execTrace (vs.map (.shWrite b)) s = some (vs.map (fun _ => some ⟨.ok, .none, 1, 0⟩), t) ∧
      t.ready .put b ∧ t.buf b = vs.foldl Buffer.shadowWritten (s.buf b) := by
  induction vs generalizing s with
  | nil => exact ⟨s, rfl, hr, rfl⟩
  | cons v vs ih =>
    have hfirst : exec (.shWrite b v) s = _ :=
      execShWrite_stores hr h.isOpen h.cur_lt ((s.buf b).committed.isFull_eq_false_iff.1 h.committed_not_full)
    have hbuf : ((s.setBuf b ((s.buf b).shadowWritten v)).ret .none 1 0).buf b = (s.buf b).shadowWritten v := by simp
    have hnext := (State.ready_setBuf_ret (q := (s.buf b).shadowWritten v) (kind := .none) (m := 1) (n := 0) rfl).2 hr
    obtain ⟨t, htrace, hready, ht⟩ := ih hnext (hbuf.symm ▸ h.shadowWritten v)
    refine ⟨t, ?_, hready, by rw [ht, hbuf]; rfl⟩
    rw [List.map_cons, execTrace_cons hfirst htrace, State.ret_answer]
    rfl

end ShadowOperations

/-- Settles O30: the writes change the committed view only, and the commit makes that view the buffer. -/
theorem shadowTransaction : Obligations.ShadowTransaction := by
  unfold Obligations.ShadowTransaction
  intro b vs s hr ho hvs
  obtain ⟨hp, hg⟩ := ho.1 hr.2
  have hbegin : exec (.shBegin b) s = _ := execShBegin_eq hr
  generalize hs' : (s.setBuf b (s.buf b).begun).ret .none (s.buf b).put.toNat 0 = s' at hbegin
  have hbuf : s'.buf b = (s.buf b).begun := by simp [← hs']
  have hready : s'.ready .put b := hs' ▸ (State.ready_setBuf_ret (q := (s.buf b).begun) rfl).2 hr
  have hopen : (s'.buf b).Transaction vs.length := hbuf ▸ Buffer.Transaction.begun hp hg hvs
  obtain ⟨t, htrace, htready, ht⟩ := execTrace_shWrite hready hopen
  obtain ⟨hlast, hheld, hput, hget, hcommit⟩ := hopen.foldl_shadowWritten
  rw [← ht] at hlast hheld hput hget hcommit
  rw [hbuf] at hheld hput hget hcommit
  obtain ⟨hcount, hshadowed⟩ := hlast.count_of_held (q := s.buf b) hheld hcommit
  refine ⟨t, _, ?_, hheld, hput, hget, execShCommit_publishes htready hlast.isOpen, ?_, ?_, ?_⟩
  · rw [execTrace_cons hbegin htrace, ← hs', State.ret_answer, half_toNat_self]
    rfl
  · rw [State.ret_buf, State.buf_setBuf]
    exact hcommit
  · rw [State.ret_buf, State.buf_setBuf]
    exact hcount
  · rw [State.ret_answer, State.ret_buf, State.buf_setBuf, half_toNat_self, hshadowed]
    rfl

/-- Settles O28: the cases are the checks of R152 and R153 in their order. -/
theorem shadowOps : Obligations.ShadowOps := by
  unfold Obligations.ShadowOps
  refine ⟨⟨fun b => encode_plain rfl rfl, fun b s hr => execShBegin_eq hr⟩,
    ⟨fun b v => encode_byte rfl rfl, fun b v s hr hshadow => ?_⟩,
    fun b => encode_plain rfl rfl, fun b s hr => ?_⟩
  · dsimp only
    split
    · exact execShWrite_notxn hr ‹_›
    have hs : (s.buf b).shv = true := Bool.eq_true_of_not_eq_false ‹_›
    split
    · exact execShWrite_full hr hs ‹_›
    · exact execShWrite_stores hr hs (hshadow hs).1 ‹_›
  · dsimp only
    split
    · exact execShCommit_notxn hr ‹_›
    · exact execShCommit_publishes hr (Bool.eq_true_of_not_eq_false ‹_›)

/-- Settles O29: `BUSY` is the first check of the operations that every format has, and the second of those that have a format
or type check, or (`PD_WRITEB`) the check of the port's sticky error, before it. -/
theorem transactionBlocksPuts : Obligations.TransactionBlocksPuts := by
  unfold Obligations.TransactionBlocksPuts
  intro b v payload s hs
  refine ⟨fun hr => ⟨execPutb_busy hr hs, execPutbu_busy hr hs, State.command_first hr hs,
    fun htyp => State.command_second hr htyp hs, fun hesc => State.command_second hr (by simp [hesc]) hs,
    fun hhex => ⟨State.command_second hr (by simp [hhex]) hs, State.command_second hr (by simp [hhex]) hs⟩⟩, ?_⟩
  rintro hr rfl hport
  exact State.command_second hr (Bool.eq_false_iff.1 hport) hs

end Sys2Proof.Machine

/-! ## FramingLayer: the entry check of `PKT_PUT` -/

namespace Sys2Proof.Machine

/-! ### The packet types -/

section PacketTypes

variable {typ : BufType}

theorem BufType.prefixSize_eq (h : typ ≠ .stream) : typ.prefixSize = if typ = .packet then 1 else 2 := by
  cases typ with
  | stream => exact absurd rfl h
  | packet => rfl
  | largePacket => rfl

theorem BufType.maxPayload_eq (h : typ ≠ .stream) : typ.maxPayload = if typ = .packet then 254 else 65279 := by
  cases typ with
  | stream => exact absurd rfl h
  | packet => rfl
  | largePacket => rfl

theorem BufType.prefixBytes_eq (h : typ ≠ .stream) (n : Nat) : typ.prefixBytes n =
    if typ = .packet then [BitVec.ofNat 8 n] else [BitVec.ofNat 8 (n / 256), BitVec.ofNat 8 n] := by
  cases typ with
  | stream => exact absurd rfl h
  | packet => rfl
  | largePacket => rfl

end PacketTypes

/-! ### Where a packet goes -/

section Placement

variable {q : Buffer} {need : Nat}

/-- A packet goes to `put` if it fits into the writable run there (42_framing.md R164): the run of `WSPAN`. -/
theorem Buffer.placePacket_plain (h : need ≤ q.writeSpan) : q.placePacket need = some false := by
  unfold Buffer.writeSpan at h
  unfold Buffer.placePacket
  split
  · rename_i hle
    rw [if_pos hle] at h
    exact if_pos h
  · rename_i hlt
    rw [if_neg hlt] at h
    exact if_pos h

/-- A packet that does not fit at `put` (42_framing.md R164; 90_conflicts.md C1): the head region, if that is free and large
enough. -/
theorem Buffer.placePacket_not_plain (h : ¬ need ≤ q.writeSpan) : q.placePacket need =
    if q.get.toNat ≤ q.put.toNat ∧ 1 ≤ q.get.toNat ∧ need ≤ q.get.toNat - 1 then some true else none := by
  unfold Buffer.writeSpan at h
  unfold Buffer.placePacket
  by_cases hle : q.get.toNat ≤ q.put.toNat
  · rw [if_pos hle] at h
    rw [if_pos hle, if_neg h]
    simp only [hle, true_and]
  · rw [if_neg hle] at h
    rw [if_neg hle, if_neg h, if_neg fun hwrap => hle hwrap.1]

/-- The test of R164 at `put`, as the rule writes it. -/
theorem Buffer.le_writeSpan_iff : need ≤ q.writeSpan ↔
    if q.get.toNat ≤ q.put.toNat then need ≤ q.cap.toNat - q.put.toNat - (if q.get = 0 then 1 else 0)
    else need ≤ q.get.toNat - q.put.toNat - 1 := by
  rw [Buffer.writeSpan_eq]
  split
  · exact Iff.rfl
  · exact Iff.rfl

/-- A placed packet ends at the physical end or before it, and a wrapped one before the filler (42_framing.md R164). -/
theorem Buffer.placePacket_fits {wrap : Bool} (hp : q.put.toNat < q.cap.toNat) (hg : q.get.toNat < q.cap.toNat)
    (h : q.placePacket need = some wrap) :
    (if wrap then 0 else q.put.toNat) + need ≤ q.cap.toNat ∧ (wrap = true → need ≤ q.put.toNat) := by
  by_cases hplain : need ≤ q.writeSpan
  · obtain rfl : wrap = false := Option.some.inj (h.symm.trans (Buffer.placePacket_plain hplain))
    rw [Buffer.writeSpan_eq_min hp hg] at hplain
    exact ⟨show q.put.toNat + need ≤ q.cap.toNat by omega, nofun⟩
  · rw [Buffer.placePacket_not_plain hplain] at h
    split at h
    · obtain rfl : wrap = true := (Option.some.inj h).symm
      exact ⟨show 0 + need ≤ q.cap.toNat by omega, fun _ => by omega⟩
    · cases h

end Placement

section PacketPut

variable {s : State} {b : BufSel} {payload : List Byte}

theorem execPktPut_range (hr : s.ready .put b) (htyp : (s.buf b).typ ≠ .stream) (hs : (s.buf b).shv = false)
    (hlen : payload.length < 1 ∨ (s.buf b).typ.maxPayload < payload.length) :
    execPktPut b payload s = .next (s.refuse .range) := by
  unfold execPktPut
  rw [State.command_ready hr]
  dsimp only
  rw [if_neg htyp, if_neg (Bool.eq_false_iff.1 hs), if_pos hlen]

/-- A packet of an allowed length: its placement decides (42_framing.md R164). -/
theorem execPktPut_placement (hr : s.ready .put b) (htyp : (s.buf b).typ ≠ .stream) (hs : (s.buf b).shv = false)
    (hlen : ¬ (payload.length < 1 ∨ (s.buf b).typ.maxPayload < payload.length)) :
    execPktPut b payload s =
      .next (((s.buf b).placePacket ((s.buf b).typ.prefixSize + payload.length)).elim (s.refuseNoSpace b) fun wrap =>
        s.begin (packetSteps b (s.buf b).typ wrap payload)
          (some ⟨.ok, .none, half ((s.buf b).typ.prefixSize + payload.length), half wrap.toNat⟩)) := by
  unfold execPktPut
  rw [State.command_ready hr]
  dsimp only
  rw [if_neg htyp, if_neg (Bool.eq_false_iff.1 hs), if_neg hlen]
  cases (s.buf b).placePacket ((s.buf b).typ.prefixSize + payload.length) with
  | none => rfl
  | some wrap => rfl

/-- `PKT_PUT` leaves micro-steps behind only for a packet of an allowed length that it has placed. -/
theorem execPktPut_begins (hidle : (s.lane s.actor).todo = []) :
    Post (fun t => (t.lane t.actor).todo ≠ [] →
      payload ≠ [] ∧ ∃ wrap, (s.buf b).placePacket ((s.buf b).typ.prefixSize + payload.length) = some wrap ∧
        t = s.begin (packetSteps b (s.buf b).typ wrap payload)
          (some ⟨.ok, .none, half ((s.buf b).typ.prefixSize + payload.length), half wrap.toNat⟩))
      (execPktPut b payload s) := by
  have hrefused : ∀ st, ((s.refuse st).lane (s.refuse st).actor).todo = [] := fun st => by
    rw [State.refuse_todo, State.refuse_actor, hidle]
  refine Post.command (fun st h => absurd (hrefused st) h) fun _ =>
    Post.guard (fun h => absurd (hrefused _) h) fun _ => Post.guard (fun h => absurd (hrefused _) h) fun _ =>
    Post.guard (fun h => absurd (hrefused _) h) fun hlen => ?_
  have hpay : payload ≠ [] := List.length_pos_iff.1 (by omega)
  split
  · refine post_next.2 fun h => absurd ?_ h
    rw [State.refuseNoSpace, State.refuse_todo, State.refuse_actor, State.setErr_lane, State.setErr_actor, hidle]
  · exact post_next.2 fun _ => ⟨hpay, _, ‹_›, rfl⟩

end PacketPut

/-- Settles O31: the type is the first check of all three. -/
theorem framingNeedsPackets : Obligations.FramingNeedsPackets := by
  unfold Obligations.FramingNeedsPackets
  exact fun b payload s htyp => ⟨fun hr => State.command_first hr htyp,
    fun hr => ⟨State.command_first hr htyp, State.command_first hr htyp⟩⟩

theorem encode_pktPut (b : BufSel) {payload : List Byte} (h : payload.length < 65536) : encode (.pktPut b payload) =
    .cmd (0x20000000#32 ||| b.word ||| BitVec.ofNat 32 payload.length) payload := by
  have hlen : (half payload.length).setWidth 32 = BitVec.ofNat 32 payload.length :=
    BitVec.eq_of_toNat_eq (by simp [half]; omega)
  rw [← hlen]
  exact congrArg (Frame.cmd · payload) (assemble_half rfl _)

/-- Settles O32: the cases are the checks of R164 in their order, then the packet's placement. -/
theorem pktPutRule : Obligations.PktPutRule := by
  unfold Obligations.PktPutRule
  refine ⟨fun b payload => encode_pktPut b, fun b payload s hr => ?_⟩
  dsimp only
  split
  · exact State.command_first hr ‹_›
  rename_i htyp
  split
  · exact State.command_second hr htyp ‹_›
  have hs : (s.buf b).shv = false := Bool.eq_false_iff.2 ‹_›
  rw [← BufType.prefixSize_eq htyp, ← BufType.maxPayload_eq htyp, ← BufType.prefixBytes_eq htyp]
  simp only [← Buffer.le_writeSpan_iff]
  split
  · exact execPktPut_range hr htyp hs ‹_›
  have hexec : exec (.pktPut b payload) s = _ := execPktPut_placement hr htyp hs ‹_›
  rw [hexec]
  split
  · rw [Buffer.placePacket_plain ‹_›]
    rfl
  rw [Buffer.placePacket_not_plain ‹_›]
  split
  · rfl
  · rfl

end Sys2Proof.Machine

/-! ## Puts run to their end -/

namespace Sys2Proof.Machine

/-- The buffer after the `uput` of a byte (20_memory.md R60). -/
def Buffer.putWritten (q : Buffer) (v : Byte) : Buffer :=
  { q with store := Memory.write q.store q.put.toNat v, put := half (q.inc q.put.toNat) }

/-- The buffer after the filler micro-step (20_memory.md R60). -/
def Buffer.filled (q : Buffer) : Buffer := { q with store := Memory.write q.store q.put.toNat 0xFF#8, put := 0 }

section PutWritten

variable {q : Buffer}

theorem Buffer.filled_read (q : Buffer) (off : Nat) :
    Memory.read q.filled.store off = if off = q.put.toNat then some 0xFF else Memory.read q.store off :=
  Memory.read_write _ _ _ _

/-- Puts move nothing of a buffer but `put` and storage bytes. -/
theorem Buffer.foldl_putWritten_frame (q : Buffer) (bs : List Byte) :
    (bs.foldl Buffer.putWritten q).cap = q.cap ∧ (bs.foldl Buffer.putWritten q).get = q.get := by
  induction bs generalizing q with
  | nil => exact ⟨rfl, rfl⟩
  | cons v bs ih => exact ih (q.putWritten v)

theorem Buffer.putWritten_put (hp : q.put.toNat < q.cap.toNat) (v : Byte) :
    (q.putWritten v).put.toNat = q.inc q.put.toNat := Buffer.half_inc (Nat.zero_lt_of_lt hp)

theorem Buffer.foldl_putWritten_put (hp : q.put.toNat < q.cap.toNat) (bs : List Byte) :
    (bs.foldl Buffer.putWritten q).put = half (q.add q.put.toNat bs.length) := by
  induction bs generalizing q with
  | nil => simp [Buffer.add, Nat.mod_eq_of_lt hp]
  | cons v bs ih =>
    have hput := Buffer.putWritten_put hp v
    have hnext : (q.putWritten v).put.toNat < (q.putWritten v).cap.toNat :=
      hput ▸ Buffer.inc_lt (Nat.zero_lt_of_lt hp)
    rw [List.foldl_cons, ih hnext, hput, List.length_cons]
    congr 1
    show ((q.put.toNat + 1) % q.cap.toNat + bs.length) % q.cap.toNat = (q.put.toNat + (bs.length + 1)) % q.cap.toNat
    rw [Nat.mod_add_mod, Nat.add_assoc, Nat.add_comm 1]

/-- Puts that do not pass the physical end lie at consecutive offsets, and touch no other byte. -/
theorem Buffer.foldl_putWritten_read {bs : List Byte} (hp : q.put.toNat < q.cap.toNat)
    (hfit : q.put.toNat + bs.length ≤ q.cap.toNat) (off : Nat) :
    Memory.read (bs.foldl Buffer.putWritten q).store off =
      if q.put.toNat ≤ off ∧ off < q.put.toNat + bs.length then bs[off - q.put.toNat]? else Memory.read q.store off := by
  induction bs generalizing q with
  | nil => rw [if_neg (by simp)]; rfl
  | cons v bs ih =>
    rw [List.length_cons] at hfit ⊢
    have hput := Buffer.putWritten_put hp v
    have hwritten : Memory.read (q.putWritten v).store off = if off = q.put.toNat then some v else Memory.read q.store off :=
      Memory.read_write _ _ _ _
    rw [List.foldl_cons]
    cases bs with
    | nil =>
      rw [List.foldl_nil, hwritten]
      split
      · rw [if_pos (by simp only [List.length_nil]; omega)]
        simp [*]
      · rw [if_neg (by simp only [List.length_nil]; omega)]
    | cons w bs =>
      rw [List.length_cons] at hfit
      rw [Buffer.inc_eq hp, if_neg (by omega)] at hput
      have hcap : (q.putWritten v).cap = q.cap := rfl
      rw [ih (by rw [hput, hcap]; omega) (by rw [hput, hcap, List.length_cons]; omega), hwritten, hput]
      by_cases hfirst : off = q.put.toNat
      · rw [if_neg (by omega), if_pos hfirst, if_pos (by omega), hfirst, Nat.sub_self]
        rfl
      · rw [if_neg hfirst]
        refine ite_congr (propext (by omega)) (fun hin => ?_) fun _ => rfl
        rw [show off - q.put.toNat = off - (q.put.toNat + 1) + 1 by omega]
        rfl

end PutWritten

section RunPuts

variable {s : State} {a : Agent} {b : BufSel}

theorem runMicros_cons {n : Nat} {t : State} (h : runMicro a s = .next t) : runMicros (n + 1) a s = runMicros n a t := by
  simp only [runMicros, h]

/-- An agent that has only puts of the bytes `bs` pending on a buffer runs them all; with the last the response is given
(20_memory.md R60; 70_reset_and_hazards.md R290). -/
theorem runMicros_putSteps {bs : List Byte} {r : Response} (hbs : bs ≠ []) (hf : s.fault = false)
    (hput : (s.buf b).put.toNat < (s.buf b).cap.toNat) (hl : s.lane a = ⟨putSteps b bs, some r, none⟩) :
    ∃ u, runMicros bs.length a s = .next u ∧ u.actor = a ∧ u.lane a = ⟨[], none, some r⟩ ∧
      u.buf b = bs.foldl Buffer.putWritten (s.buf b) := by
  induction bs generalizing s with
  | nil => exact absurd rfl hbs
  | cons v bs ih =>
    have hstep := runMicro_uput hf hput (congrArg Lane.todo hl)
    rw [hl] at hstep
    generalize ht : State.setLane _ a _ = t at hstep
    have hbuf : t.buf b = (s.buf b).putWritten v := by simp [← ht, Buffer.putWritten]
    have hlane : t.lane a = Lane.settled ⟨putSteps b bs, some r, none⟩ := by simp [← ht, putSteps]
    have hactor : t.actor = a := by simp [← ht]
    rw [List.length_cons, runMicros_cons hstep]
    cases bs with
    | nil => exact ⟨t, rfl, hactor, hlane, hbuf⟩
    | cons w bs =>
      obtain ⟨u, hrun, hu⟩ := ih (s := t) nofun (by simpa [← ht] using hf)
        (by rw [hbuf, Buffer.putWritten_put hput]; exact Buffer.inc_lt (Nat.zero_lt_of_lt hput)) hlane
      exact ⟨u, hrun, by rw [List.foldl_cons, ← hbuf]; exact hu⟩

/-- The buffer before the puts of a packet: behind a filler, if the packet wraps (42_framing.md R164). -/
def Buffer.packetStart (q : Buffer) (wrap : Bool) : Buffer := if wrap then q.filled else q

/-- The buffer after all micro-steps of a packet (42_framing.md R164). -/
def Buffer.packetWritten (q : Buffer) (wrap : Bool) (bytes : List Byte) : Buffer :=
  bytes.foldl Buffer.putWritten (q.packetStart wrap)

/-- The same with a filler before the puts, if the packet wraps (42_framing.md R164). -/
theorem runMicros_packetSteps {typ : BufType} {wrap : Bool} {payload : List Byte} {r : Response} (hpay : payload ≠ [])
    (hf : s.fault = false) (hput : (s.buf b).put.toNat < (s.buf b).cap.toNat)
    (hl : s.lane a = ⟨packetSteps b typ wrap payload, some r, none⟩) :
    ∃ u, runMicros (packetSteps b typ wrap payload).length a s = .next u ∧ u.actor = a ∧ u.lane a = ⟨[], none, some r⟩ ∧
      u.buf b = (s.buf b).packetWritten wrap (typ.prefixBytes payload.length ++ payload) := by
  have hbytes : typ.prefixBytes payload.length ++ payload ≠ [] := by simp [hpay]
  have hlen : ∀ bs, (putSteps b bs).length = bs.length := fun bs => List.length_map _
  cases wrap with
  | false =>
    have hrun := runMicros_putSteps hbytes hf hput hl
    rwa [← hlen] at hrun
  | true =>
    have hstep := runMicro_fill hf hput (congrArg Lane.todo hl)
    rw [hl] at hstep
    generalize ht : State.setLane _ a _ = t at hstep
    have hbuf : t.buf b = (s.buf b).filled := by simp [← ht, Buffer.filled]
    have hlane : t.lane a = ⟨putSteps b (typ.prefixBytes payload.length ++ payload), some r, none⟩ := by
      rw [← ht, State.lane_setLane]
      exact if_neg fun h => hbytes (List.map_eq_nil_iff.1 h.1)
    have hrun := runMicros_putSteps hbytes (by simpa [← ht] using hf)
      (by rw [hbuf]; exact Nat.zero_lt_of_lt hput) hlane
    rw [← hlen, ← runMicros_cons hstep, hbuf] at hrun
    exact hrun

end RunPuts

section PacketWritten

variable {q : Buffer} {wrap : Bool} {bytes : List Byte} {x : Nat}

theorem Buffer.packetStart_frame (q : Buffer) (wrap : Bool) : (q.packetStart wrap).cap = q.cap ∧
    (q.packetStart wrap).get = q.get ∧ (q.packetStart wrap).put.toNat = if wrap then 0 else q.put.toNat := by
  cases wrap with
  | false => exact ⟨rfl, rfl, rfl⟩
  | true => exact ⟨rfl, rfl, rfl⟩

theorem Buffer.packetStart_read (q : Buffer) (wrap : Bool) (off : Nat) : Memory.read (q.packetStart wrap).store off =
    if wrap = true ∧ off = q.put.toNat then some 0xFF else Memory.read q.store off := by
  cases wrap with
  | false => exact (if_neg nofun).symm
  | true => exact (q.filled_read off).trans (by simp only [true_and])

/-- Each byte of the storage after a packet whose first byte lies at `x`: the packet's own, the filler's, or the old one. -/
theorem Buffer.packetWritten_read (hp : q.put.toNat < q.cap.toNat) (hx : x = if wrap then 0 else q.put.toNat)
    (hfit : x + bytes.length ≤ q.cap.toNat) (off : Nat) : Memory.read (q.packetWritten wrap bytes).store off =
      if x ≤ off ∧ off < x + bytes.length then bytes[off - x]?
      else if wrap = true ∧ off = q.put.toNat then some 0xFF else Memory.read q.store off := by
  obtain ⟨hcap, -, hput⟩ := q.packetStart_frame wrap
  rw [← hx] at hput
  have hlt : x < q.cap.toNat := by
    rw [hx]
    split <;> omega
  unfold Buffer.packetWritten
  rw [Buffer.foldl_putWritten_read (by rwa [hput, hcap]) (by rwa [hput, hcap]), hput, Buffer.packetStart_read]

theorem Buffer.packetWritten_put (hp : q.put.toNat < q.cap.toNat) (hx : x = if wrap then 0 else q.put.toNat) :
    (q.packetWritten wrap bytes).put = half ((x + bytes.length) % q.cap.toNat) := by
  obtain ⟨hcap, -, hput⟩ := q.packetStart_frame wrap
  rw [← hx] at hput
  have hlt : x < q.cap.toNat := by
    rw [hx]
    split <;> omega
  unfold Buffer.packetWritten
  rw [Buffer.foldl_putWritten_put (by rwa [hput, hcap]), Buffer.add, hput, hcap]

theorem Buffer.packetWritten_get : (q.packetWritten wrap bytes).get = q.get := by
  obtain ⟨-, hstart, -⟩ := q.packetStart_frame wrap
  obtain ⟨-, hputs⟩ := Buffer.foldl_putWritten_frame (q.packetStart wrap) bytes
  exact hputs.trans hstart

/-- A packet that was placed lies in one span, behind its filler if it wraps; every other byte is as before (42_framing.md
R160 to R162; 20_memory.md R56). -/
theorem Buffer.packetWritten_laidOut (hp : q.put.toNat < q.cap.toNat) (hx : x = if wrap then 0 else q.put.toNat)
    (hfit : x + bytes.length ≤ q.cap.toNat) (hfiller : wrap = true → bytes.length ≤ q.put.toNat) :
    (∀ k, k < bytes.length → Memory.read (q.packetWritten wrap bytes).store (x + k) = bytes[k]?) ∧
      (wrap = true → Memory.read (q.packetWritten wrap bytes).store q.put.toNat = some 0xFF) ∧
      ∀ off, (off < x ∨ x + bytes.length ≤ off) → ¬ (wrap = true ∧ off = q.put.toNat) →
        Memory.read (q.packetWritten wrap bytes).store off = Memory.read q.store off := by
  have hread := Buffer.packetWritten_read hp hx hfit
  refine ⟨fun k hk => ?_, fun hwrap => ?_, fun off hoff hnot => ?_⟩
  · rw [hread, if_pos (by omega), Nat.add_sub_cancel_left]
  · have hlen := hfiller hwrap
    rw [if_pos hwrap] at hx
    rw [hread, if_neg (by omega), if_pos ⟨hwrap, rfl⟩]
  · rw [hread, if_neg (by omega), if_neg hnot]

end PacketWritten

/-- Settles O33: the micro-steps that the entry check fixed run to their end, and the bytes they store lie where the packet
was placed. -/
theorem packetLaidOut : Obligations.PacketLaidOut := by
  unfold Obligations.PacketLaidOut
  intro b payload s t hinv hr htyp hidle hexec htodo
  obtain ⟨hput, hget⟩ := hinv.offsets hr.2
  obtain ⟨hpay, wrap, hplace, rfl⟩ := execPktPut_begins hidle t hexec htodo
  obtain ⟨u, hrun, hactor, hlane, hbuf⟩ := runMicros_packetSteps (a := s.actor) hpay (by simpa using hr.1.1)
    (by simpa using hput) (s.begin_lane (packetSteps b (s.buf b).typ wrap payload) _)
  rw [State.begin_buf] at hbuf
  rw [State.begin_actor, State.begin_lane]
  refine ⟨u, hrun, by rw [hactor, hlane], wrap, ?_⟩
  dsimp only
  rw [← BufType.prefixBytes_eq htyp, hbuf]
  have hlen : (s.buf b).typ.prefixSize + payload.length =
      ((s.buf b).typ.prefixBytes payload.length ++ payload).length := by
    rw [List.length_append, BufType.prefixBytes_length]
  rw [hlen] at hplace hlane
  obtain ⟨hfit, hfiller⟩ := Buffer.placePacket_fits hput hget hplace
  exact ⟨by rw [State.answer, hactor, hlane], hfit, Buffer.packetWritten_put hput rfl,
    Buffer.packetWritten_get, Buffer.packetWritten_laidOut hput rfl hfit hfiller⟩

end Sys2Proof.Machine

/-! ## FramingLayer: one round of the packet check -/

namespace Sys2Proof.Machine

/-- What one round of `PKT_HAS` finds at `get`, and the state after its reads (42_framing.md R165). -/
def State.scan (s : State) (b : BufSel) : Scan × State :=
  let q := s.buf b
  let t := s.afterRead b q.get.toNat
  if q.count = 0 then (.size 0, s)
  else if s.byteAt b q.get.toNat = 0xFF#8 then
    if q.put.toNat < q.get.toNat then (.filler, t) else (.malformed, t)
  else if q.typ = .largePacket then
    if q.count < 2 then (.size 0, t)
    else
      (q.judgeLength ((s.byteAt b q.get.toNat).toNat * 256 + (t.byteAt b (q.add q.get.toNat 1)).toNat),
        t.afterRead b (q.add q.get.toNat 1))
  else (q.judgeLength (s.byteAt b q.get.toNat).toNat, t)

/-- The end of a round of `PKT_HAS` (42_framing.md R165). -/
def State.pktHasEnd (b : BufSel) : Scan × State → State
  | (.filler, t) => (t.setGet b 0).begin [.pktHas b] none
  | (.size n, t) => t.ret .none n 0
  | (.malformed, t) => t.refuse .malformed
  | (.zerolen, t) => t.raise .zerolen (t.buf b).typ.prefixSize 0

/-- The end of a round of `PKT_GETC` (42_framing.md R166). -/
def State.pktGetcEnd (b : BufSel) : Scan × State → State
  | (.filler, t) => (t.setGet b 0).begin [.pktGetc b] none
  | (.size n, t) =>
    if n = 0 then t.refuse .nodata
    else t.ret .none ((t.buf b).get.toNat + (t.buf b).typ.prefixSize) (n - (t.buf b).typ.prefixSize)
  | (.malformed, t) => t.refuse .malformed
  | (.zerolen, t) => t.raise .zerolen ((t.buf b).add (t.buf b).get.toNat (t.buf b).typ.prefixSize) 0

/-- A round finds the size of a packet only if the packet is held, has a payload and ends at the physical end or before it
(42_framing.md R165). -/
def Scan.Fits (q : Buffer) : Scan → Prop
  | .filler => True
  | .size n => n ≠ 0 → q.get.toNat + n ≤ q.cap.toNat ∧ n ≤ q.count ∧ q.typ.prefixSize < n
  | .malformed => True
  | .zerolen => True

section Rounds

variable {s : State} {b : BufSel}

theorem State.scanPacket_eq (hget : (s.buf b).get.toNat < (s.buf b).cap.toNat) (k : Scan → State → Result) :
    s.scanPacket b k = k (s.scan b).1 (s.scan b).2 := by
  have hnext : (s.buf b).add (s.buf b).get.toNat 1 < (s.buf b).cap.toNat := Buffer.add_lt (Nat.zero_lt_of_lt hget)
  unfold State.scanPacket State.scan
  dsimp only
  split
  · rfl
  rw [State.withByte_below hget]
  simp only [State.afterRead_buf]
  split
  · split
    · rfl
    · rfl
  split
  · split
    · rfl
    · rw [State.withByte_below (by rw [State.afterRead_buf]; exact hnext)]
      simp only [State.afterRead_buf]
  · rfl

theorem State.pktHasRound_eq (hget : (s.buf b).get.toNat < (s.buf b).cap.toNat) :
    s.pktHasRound b = .next (State.pktHasEnd b (s.scan b)) := by
  unfold State.pktHasRound
  rw [State.scanPacket_eq hget]
  obtain ⟨r, t⟩ := s.scan b
  cases r with
  | filler => rfl
  | size n => rfl
  | malformed => rfl
  | zerolen => rfl

theorem State.pktGetcRound_eq (hget : (s.buf b).get.toNat < (s.buf b).cap.toNat) :
    s.pktGetcRound b = .next (State.pktGetcEnd b (s.scan b)) := by
  unfold State.pktGetcRound
  rw [State.scanPacket_eq hget]
  obtain ⟨r, t⟩ := s.scan b
  cases r with
  | filler => rfl
  | size n => exact (apply_ite Host.Outcome.next _ _ _).symm
  | malformed => rfl
  | zerolen => rfl

/-- A packet operation that passes its checks is its first round. -/
theorem execPktHas_round (hr : s.ready .get b) (htyp : (s.buf b).typ ≠ .stream) : execPktHas b s = s.pktHasRound b := by
  unfold execPktHas
  rw [State.command_ready hr, if_neg htyp]

theorem execPktGetc_round (hr : s.ready .get b) (htyp : (s.buf b).typ ≠ .stream) :
    execPktGetc b s = s.pktGetcRound b := by
  unfold execPktGetc
  rw [State.command_ready hr, if_neg htyp]

/-- A round reads: at most the counter of free draws changes (20_memory.md R67). -/
theorem State.scan_state (s : State) (b : BufSel) : ∃ d, (s.scan b).2 = { s with draws := d } := by
  obtain ⟨d, hd, -⟩ := s.afterRead_eq b (s.buf b).get.toNat
  unfold State.scan
  dsimp only
  rw [hd]
  split
  · exact ⟨s.draws, rfl⟩
  split
  · split
    · exact ⟨d, rfl⟩
    · exact ⟨d, rfl⟩
  split
  · split
    · exact ⟨d, rfl⟩
    · obtain ⟨e, he, -⟩ := State.afterRead_eq { s with draws := d } b ((s.buf b).add (s.buf b).get.toNat 1)
      exact ⟨e, he⟩
  · exact ⟨d, rfl⟩

theorem Buffer.judgeLength_fits (q : Buffer) (len : Nat) : (q.judgeLength len).Fits q := by
  unfold Buffer.judgeLength
  split
  · trivial
  split
  · trivial
  split
  · exact fun _ => ⟨by omega, ‹_›, by omega⟩
  · exact fun h => absurd rfl h

theorem State.scan_fits (s : State) (b : BufSel) : (s.scan b).1.Fits (s.buf b) := by
  unfold State.scan
  dsimp only
  split
  · exact fun h => absurd rfl h
  split
  · split
    · trivial
    · trivial
  split
  · split
    · exact fun h => absurd rfl h
    · exact Buffer.judgeLength_fits _ _
  · exact Buffer.judgeLength_fits _ _

/-- The end of a round of `PKT_HAS` that knows the length (42_framing.md R165). -/
theorem State.pktHasEnd_judgeLength {q : Buffer} {t : State} (hq : t.buf b = q) (len : Nat) :
    State.pktHasEnd b (q.judgeLength len, t) =
      if len = 0 then t.raise .zerolen q.typ.prefixSize 0
      else if q.cap.toNat < q.get.toNat + q.typ.prefixSize + len then t.refuse .malformed
      else t.ret .none (if q.typ.prefixSize + len ≤ q.count then q.typ.prefixSize + len else 0) 0 := by
  unfold Buffer.judgeLength
  split
  · rw [← hq]
    rfl
  split
  · rfl
  split
  · rfl
  · rfl

theorem State.pktHasEnd_filler {q : Buffer} {t : State} (hq : t.buf b = q) :
    State.pktHasEnd b (.filler, t) = (t.setBuf b { q with get := 0 }).begin [.pktHas b] none := by
  rw [← hq]
  rfl

/-- `PKT_HAS` and `PKT_GETC` on a buffer that is not a Stream: one round (42_framing.md R165, R166). -/
theorem exec_pktHas_eq (hr : s.ready .get b) (ho : (s.buf b).offsetsOk) (htyp : (s.buf b).typ ≠ .stream) :
    exec (.pktHas b) s = .next (State.pktHasEnd b (s.scan b)) :=
  (execPktHas_round hr htyp).trans (State.pktHasRound_eq (ho.1 hr.2).2)

theorem exec_pktGetc_eq (hr : s.ready .get b) (ho : (s.buf b).offsetsOk) (htyp : (s.buf b).typ ≠ .stream) :
    exec (.pktGetc b) s = .next (State.pktGetcEnd b (s.scan b)) :=
  (execPktGetc_round hr htyp).trans (State.pktGetcRound_eq (ho.1 hr.2).2)

theorem State.pktGetcEnd_size {n : Nat} (hn : n ≠ 0) (t : State) : State.pktGetcEnd b (.size n, t) =
    t.ret .none ((t.buf b).get.toNat + (t.buf b).typ.prefixSize) (n - (t.buf b).typ.prefixSize) := if_neg hn

/-! ### Two answers in a row -/

theorem State.setLane_setLane (s : State) (a : Agent) (l m : Lane) : (s.setLane a l).setLane a m = s.setLane a m := by
  cases a <;> rfl

/-- Of two responses on a port the second stands. -/
theorem State.respond_respond (s : State) (r r' : Response) : (s.respond r).respond r' = s.respond r' := by
  unfold State.respond
  rw [State.setLane_actor, State.lane_setLane, State.setLane_setLane]

theorem State.respond_answer (s : State) (r : Response) : (s.respond r).answer = some r := by
  unfold State.answer
  rw [State.respond_actor, State.respond_out]

/-- A claim about the response that the port has just given. -/
theorem State.respond_answer_elim {r : Response} {p : Prop} {P : Response → Prop} (h : P r) :
    ((s.respond r).answer = none → p) ∧ ∀ r', (s.respond r).answer = some r' → P r' := by
  rw [State.respond_answer]
  refine ⟨nofun, ?_⟩
  rintro _ ⟨⟩
  exact h

theorem State.begin_answer (s : State) (ms : List Micro) (r : Option Response) : (s.begin ms r).answer = none := by
  unfold State.answer
  rw [State.begin_actor, State.begin_lane]

/-! ### No second filler -/

/-- `get` is 0 after a filler was removed, and `put` is not below it: the next round does not find another one
(42_framing.md R165; 70_reset_and_hazards.md R291). -/
theorem State.scanPacket_no_filler {P : State → Prop} {k : Scan → State → Result} (hget : (s.buf b).get = 0)
    (h : ∀ r d, r ≠ .filler → Post P (k r { s with draws := d })) : Post P (s.scanPacket b k) :=
  Post.scanPacket fun r d hlt => h r d fun hr => by
    have hput := hlt hr
    rw [hget] at hput
    exact absurd hput (Nat.not_lt_zero _)

theorem State.pktHasRound_ends {a : Agent} (hget : (s.buf b).get = 0) (hl : (s.lane a).todo = []) :
    Post (fun u => (u.lane a).todo = []) (s.pktHasRound b) := by
  refine State.scanPacket_no_filler hget fun r d hr => ?_
  have hd : (State.lane { s with draws := d } a).todo = [] := by cases a <;> exact hl
  cases r with
  | filler => exact absurd rfl hr
  | size n => exact post_next.2 ((State.ret_todo _ _ _ _ a).trans hd)
  | malformed => exact post_next.2 ((State.refuse_todo _ _ a).trans hd)
  | zerolen => exact post_next.2 ((State.raise_todo _ _ _ _ a).trans hd)

theorem State.pktGetcRound_ends {a : Agent} (hget : (s.buf b).get = 0) (hl : (s.lane a).todo = []) :
    Post (fun u => (u.lane a).todo = []) (s.pktGetcRound b) := by
  refine State.scanPacket_no_filler hget fun r d hr => ?_
  have hd : (State.lane { s with draws := d } a).todo = [] := by cases a <;> exact hl
  cases r with
  | filler => exact absurd rfl hr
  | size n =>
    exact Post.guard ((State.refuse_todo _ _ a).trans hd) fun _ => post_next.2 ((State.ret_todo _ _ _ _ a).trans hd)
  | malformed => exact post_next.2 ((State.refuse_todo _ _ a).trans hd)
  | zerolen => exact post_next.2 ((State.raise_todo _ _ _ _ a).trans hd)

end Rounds

/-- Settles O34: the two packet types differ in how the round comes to know the length. -/
theorem pktHasRule : Obligations.PktHasRule := by
  unfold Obligations.PktHasRule
  have hbyte : ∀ v : Byte, v = 0xFF#8 ↔ v.toNat = 255 := fun v => (BitVec.toNat_inj (y := 0xFF#8)).symm
  refine ⟨⟨fun b => encode_plain rfl rfl, fun b s hr ho htyp => ?_⟩, fun b s hr ho htyp => ?_⟩
  · have hlarge : (s.buf b).typ ≠ .largePacket := by rw [htyp]; decide
    rw [exec_pktHas_eq hr ho (by rw [htyp]; decide)]
    unfold State.scan
    dsimp only
    rw [if_neg hlarge]
    simp only [apply_ite (State.pktHasEnd b), hbyte]
    rw [State.pktHasEnd_filler (State.afterRead_buf s b b _), State.pktHasEnd_judgeLength (State.afterRead_buf s b b _),
      htyp]
    rfl
  · rw [exec_pktHas_eq hr ho (by rw [htyp]; decide)]
    unfold State.scan
    dsimp only
    rw [if_pos htyp]
    simp only [apply_ite (State.pktHasEnd b), hbyte]
    rw [State.pktHasEnd_filler (State.afterRead_buf s b b _),
      State.pktHasEnd_judgeLength (by simp only [State.afterRead_buf]), htyp]
    rfl

/-- Settles O35: both operations end the same round, and the cases are what the round finds. -/
theorem pktGetcRule : Obligations.PktGetcRule := by
  unfold Obligations.PktGetcRule
  refine ⟨fun b => encode_plain rfl rfl, fun b s hr ho htyp => ?_⟩
  dsimp only
  refine ⟨_, exec_pktHas_eq hr ho htyp, ?_⟩
  rw [exec_pktGetc_eq hr ho htyp, ← BufType.prefixSize_eq htyp]
  have hfits := s.scan_fits b
  obtain ⟨d, hd⟩ := s.scan_state b
  have hcount := Buffer.count_lt_cap (ho.1 hr.2).1 (ho.1 hr.2).2
  generalize s.scan b = x at *
  obtain ⟨r, t⟩ := x
  dsimp only at hd hfits
  have hbuf : t.buf b = s.buf b := hd ▸ s.draws_buf d b
  have hactor : t.actor = s.actor := by rw [hd]
  cases r with
  | filler =>
    refine ⟨fun _ => ?_, fun r hans => absurd ((State.begin_answer _ _ _).symm.trans hans) nofun⟩
    simp only [State.pktHasEnd, State.pktGetcEnd, State.begin, State.setGet_actor, hactor, State.setLane_setLane]
  | size n =>
    by_cases hn : n = 0
    · subst hn
      refine State.respond_answer_elim ⟨congrArg _ ?_, fun _ hzero => absurd rfl hzero⟩
      rw [if_neg nofun, if_neg (not_not_intro rfl), if_pos (show half 0 = 0 from rfl)]
      exact (State.respond_respond _ _ _).symm
    · have hpacket := hfits hn
      have hhalf : (half n).toNat = n := half_toNat (by have := (s.buf b).cap_lt; omega)
      refine State.respond_answer_elim ⟨congrArg _ ?_, fun _ _ => by rwa [hhalf]⟩
      rw [if_neg nofun, if_neg (not_not_intro rfl), if_neg fun hzero => hn (hhalf.symm.trans (congrArg _ hzero)), hhalf,
        State.pktGetcEnd_size hn, hbuf]
      exact (State.respond_respond _ _ _).symm
  | malformed =>
    refine State.respond_answer_elim ⟨congrArg _ ?_, nofun⟩
    rw [if_neg nofun, if_pos nofun]
    exact (State.respond_respond _ _ _).symm
  | zerolen =>
    refine State.respond_answer_elim ⟨congrArg _ ?_, nofun⟩
    rw [if_pos rfl, ← hbuf]
    exact (State.respond_respond _ _ _).symm

/-- Settles O36: a round finds a filler only where the producer has passed it, and `put` is not below 0. -/
theorem fillerRoundRepeats : Obligations.FillerRoundRepeats := by
  unfold Obligations.FillerRoundRepeats
  intro a b s hf t hr ho htyp
  have hhas : exec (.pktHas b) t = _ := execPktHas_round hr htyp
  have hgetc : exec (.pktGetc b) t = _ := execPktGetc_round hr htyp
  have hidle : (t.lane a).todo = [] := State.take_todo (s := s)
  rw [hhas, hgetc]
  exact ⟨runMicro_cons hf, runMicro_cons hf, fun hget u hu =>
    hu.elim (State.pktHasRound_ends hget hidle u) (State.pktGetcRound_ends hget hidle u)⟩

end Sys2Proof.Machine

/-! ## EscapeCodec: the codec functions -/

namespace Sys2Proof.Machine

/-! ### The formats -/

section Formats

variable {f : Format}

theorem Format.escaped_eq_false_iff : f.escaped = false ↔ f ≠ .binaryEscaped ∧ f ≠ .asciiEscaped := by
  cases f <;> decide

theorem Format.hex_eq_false_iff : f.hex = false ↔ f ≠ .ascii ∧ f ≠ .asciiEscaped := by
  cases f <;> decide

/-- The rows of 43_codec.md R182 by the number of their bytes. -/
theorem Format.encData_eq (f : Format) (esc v : Byte) : f.encData esc v =
    if f = .ascii ∨ f = .asciiEscaped ∨ (f = .binaryEscaped ∧ v = esc) then
      if f = .binaryEscaped then [v, v] else hexPair v
    else [v] := by
  cases f with
  | none => rfl
  | binary => rfl
  | binaryEscaped =>
    by_cases hv : v = esc
    · simp [Format.encData, hv]
    · simp [Format.encData, hv]
  | ascii => rfl
  | asciiEscaped => rfl

end Formats

/-! ### Hexadecimal digits (43_codec.md R184) -/

section Digits

theorem hexVal_eq_some_iff (x : Byte) (n : Nat) : hexVal x = some n ↔
    (n ≤ 9 ∧ x.toNat = 0x30 + n) ∨ (10 ≤ n ∧ n ≤ 15 ∧ x.toNat = 0x37 + n) := by
  unfold hexVal
  split
  · rw [Option.some_inj]
    omega
  split
  · rw [Option.some_inj]
    omega
  · exact iff_of_false nofun (by omega)

theorem hexVal_hexChar {n : Nat} (hn : n ≤ 15) : hexVal (hexChar n) = some n := by
  rw [hexVal_eq_some_iff, hexChar, BitVec.toNat_ofNat]
  split
  · omega
  · omega

theorem hexVal_high (v : Byte) : hexVal (hexChar (v.toNat / 16)) = some (v.toNat / 16) := hexVal_hexChar (by omega)

theorem hexVal_low (v : Byte) : hexVal (hexChar (v.toNat % 16)) = some (v.toNat % 16) := hexVal_hexChar (by omega)

/-- A byte is its two digits. -/
theorem ofNat_digits (v : Byte) : BitVec.ofNat 8 (v.toNat / 16 * 16 + v.toNat % 16) = v := by
  rw [Nat.div_add_mod', BitVec.ofNat_toNat, BitVec.setWidth_eq]

end Digits

/-! ### The decode functions (43_codec.md R189) -/

section DecodeFunctions

variable {esc quote b0 b1 : Byte} {c : Nat}

theorem decodeHex_eq (quote : Byte) (c : Nat) (b0 b1 : Byte) : decodeHex quote c b0 b1 =
    if b0 = quote then .ok ⟨.quote, quote, 1⟩
    else if hexVal b0 = none then .error .malformed
    else if c < 2 then .error .nodata
    else if hexVal b1 = none then .error .malformed
    else .ok ⟨.data, BitVec.ofNat 8 ((hexVal b0).getD 0 * 16 + (hexVal b1).getD 0), 2⟩ := by
  unfold decodeHex
  cases hexVal b0 with
  | none => rfl
  | some hi =>
    cases hexVal b1 with
    | none => rfl
    | some lo => rfl

theorem decodeHex_pair {hi lo : Nat} (hq : b0 ≠ quote) (h0 : hexVal b0 = some hi) (h1 : hexVal b1 = some lo)
    (hc : 2 ≤ c) : decodeHex quote c b0 b1 = .ok ⟨.data, BitVec.ofNat 8 (hi * 16 + lo), 2⟩ := by
  rw [decodeHex_eq, if_neg hq, h0, h1, if_neg nofun, if_neg (Nat.not_lt.2 hc), if_neg nofun]
  rfl

/-- The second byte that a decode function sees counts only if it is held. -/
def NeedsHeld (dec : Nat → Byte → Byte → Except Status Symbol) : Prop :=
  ∀ ⦃c b0 x y⦄, c < 2 → dec c b0 x = dec c b0 y

theorem needsHeld_decodeHex : NeedsHeld (decodeHex quote) := by
  intro c b0 x y hc
  rw [decodeHex_eq, decodeHex_eq, if_pos hc, if_pos hc]

theorem Format.needsHeld_decodeNormal (f : Format) : NeedsHeld (f.decodeNormal esc quote) := by
  intro c b0 x y hc
  cases f with
  | none => rfl
  | binary => rfl
  | binaryEscaped => simp only [Format.decodeNormal, if_pos hc]
  | ascii => exact needsHeld_decodeHex hc
  | asciiEscaped => simp only [Format.decodeNormal, if_pos hc, needsHeld_decodeHex (x := x) (y := y) hc]

theorem needsHeld_decodeLiteral : NeedsHeld (decodeLiteral quote) := by
  intro c b0 x y hc
  simp only [decodeLiteral, if_pos hc]

end DecodeFunctions

/-- Settles O42, by the formats; the ASCII lines are `decodeHex`. -/
theorem decodeFunction : Obligations.DecodeFunction := by
  unfold Obligations.DecodeFunction
  refine ⟨fun f esc quote c b0 b1 _ => ?_, fun v => ⟨_, _, rfl, hexVal_high v, hexVal_low v⟩, hexVal_eq_some_iff⟩
  rw [← decodeHex_eq]
  cases f with
  | none => rfl
  | binary => rfl
  | binaryEscaped => simp [Format.decodeNormal]
  | ascii => simp [Format.decodeNormal]
  | asciiEscaped => simp [Format.decodeNormal]

end Sys2Proof.Machine

/-! ## EscapeCodec: encoding -/

namespace Sys2Proof.Machine

section Encode

variable {s : State} {b : BufSel} {v : Byte}

/-! ### All or nothing (43_codec.md R185) -/

theorem State.storeAll_full {bs : List Byte} (h : (s.buf b).free < bs.length) :
    s.storeAll b bs = .next ((s.setBuf b { s.buf b with err := true }).raise .nospace 0 0) := if_pos h

/-- One byte is stored in the step of the entry check (20_memory.md R60). -/
theorem State.storeAll_fits_byte (hput : (s.buf b).put.toNat < (s.buf b).cap.toNat) (h : ¬ (s.buf b).free < 1) (v : Byte) :
    s.storeAll b [v] = .next ((s.setBuf b ((s.buf b).putWritten v)).ret .none 1 0) :=
  (if_neg h).trans (State.withPut_below hput)

/-- Two bytes or more become micro-steps (20_memory.md R60). -/
theorem State.storeAll_fits_bytes {bs : List Byte} (hlen : 2 ≤ bs.length) (h : ¬ (s.buf b).free < bs.length) :
    s.storeAll b bs = .next (s.begin (putSteps b bs) (some ⟨.ok, .none, half bs.length, 0⟩)) := by
  unfold State.storeAll
  rw [if_neg h]
  split
  · exact absurd hlen (by simp)
  · rfl

theorem State.storeAll_byte (hput : (s.buf b).put.toNat < (s.buf b).cap.toNat) (v : Byte) :
    s.storeAll b [v] = .next (if (s.buf b).free < 1 then (s.setBuf b { s.buf b with err := true }).raise .nospace 0 0
      else (s.setBuf b ((s.buf b).putWritten v)).ret .none 1 0) := by
  split
  · exact State.storeAll_full ‹_›
  · exact State.storeAll_fits_byte hput ‹_› v

theorem State.storeAll_pair (s : State) (b : BufSel) (x y : Byte) :
    s.storeAll b [x, y] = .next (if (s.buf b).free < 2 then (s.setBuf b { s.buf b with err := true }).raise .nospace 0 0
      else s.begin [.uput b x, .uput b y] (some ⟨.ok, .none, 2, 0⟩)) := by
  split
  · exact State.storeAll_full ‹_›
  · exact State.storeAll_fits_bytes (Nat.le_refl 2) ‹_›

/-! ### The operations -/

theorem execEncData_stores (hr : s.ready .put b) (hs : (s.buf b).shv = false) :
    execEncData b v s = s.storeAll b (s.dataBytes b v) := by
  unfold execEncData
  rw [State.command_ready hr, hs]
  rfl

theorem execEncCtrl_stores (hr : s.ready .put b) (hesc : (s.buf b).fmt.escaped = true) (hs : (s.buf b).shv = false)
    (hv : v ≠ s.esc b) : execEncCtrl b v s = s.storeAll b [s.esc b, v] := by
  unfold execEncCtrl
  rw [State.command_ready hr, hesc, hs, if_neg hv]
  rfl

/-- A control code that would read as a literal `ESC` (43_codec.md R186). -/
theorem execEncCtrl_range (hr : s.ready .put b) (hesc : (s.buf b).fmt.escaped = true) (hs : (s.buf b).shv = false)
    (hv : v = s.esc b) : execEncCtrl b v s = .next (s.refuse .range) := by
  unfold execEncCtrl
  rw [State.command_ready hr, hesc, hs, if_pos hv]
  rfl

theorem execEncQuote_stores (hr : s.ready .put b) (hhex : (s.buf b).fmt.hex = true) (hs : (s.buf b).shv = false) :
    execEncQuote b s = s.storeAll b [s.quote b] := by
  unfold execEncQuote
  rw [State.command_ready hr, hhex, hs]
  rfl

theorem execEncLit_stores (hr : s.ready .put b) (hhex : (s.buf b).fmt.hex = true) (hs : (s.buf b).shv = false) :
    execEncLit b v s = s.storeAll b (litBytes (s.quote b) v) := by
  unfold execEncLit
  rw [State.command_ready hr, hhex, hs]
  rfl

/-! ### Encoding appends -/

theorem Buffer.held_foldl_putWritten {q : Buffer} {bs : List Byte} (hp : q.put.toNat < q.cap.toNat)
    (hg : q.get.toNat < q.cap.toNat) (h : bs.length ≤ q.free) :
    (bs.foldl Buffer.putWritten q).held = q.held ++ bs.map some := by
  induction bs generalizing q with
  | nil => exact (List.append_nil _).symm
  | cons v bs ih =>
    rw [List.length_cons] at h
    have hfull : q.isFull = false := by
      rw [← Bool.not_eq_true, Buffer.isFull_iff_free hp hg]
      omega
    obtain ⟨-, hfree⟩ := Buffer.put_counts hp hg hfull (Memory.write q.store q.put.toNat v)
    have hnext : (q.putWritten v).put.toNat < (q.putWritten v).cap.toNat :=
      Buffer.putWritten_put hp v ▸ Buffer.inc_lt (Nat.zero_lt_of_lt hp)
    have hroom : bs.length ≤ (q.putWritten v).free := by
      unfold Buffer.putWritten
      omega
    have hheld : (q.putWritten v).held = q.held ++ [some v] := Buffer.held_put hp hg hfull v
    rw [List.foldl_cons, ih hnext hg hroom, hheld, List.append_assoc]
    rfl

theorem runMicro_idle {a : Agent} (h : (s.lane a).todo = []) : runMicro a s = .next s := by
  unfold runMicro
  rw [h]

/-- What is accepted is stored whole, whether in the step of the entry check or in micro-steps (20_memory.md R60). -/
theorem State.storeAll_appends {bs : List Byte} (hr : s.ready .put b) (ho : (s.buf b).offsetsOk)
    (hidle : (s.lane s.actor).todo = []) (hbs : bs ≠ []) (hroom : bs.length ≤ (s.buf b).free) :
    ∃ t u, s.storeAll b bs = .next t ∧ runMicros bs.length t.actor t = .next u ∧
      (u.buf b).held = (s.buf b).held ++ bs.map some ∧ u.answer = some ⟨.ok, .none, half bs.length, 0⟩ := by
  obtain ⟨hp, hg⟩ := ho.1 hr.2
  have hheld := Buffer.held_foldl_putWritten hp hg hroom
  by_cases hone : bs.length = 1
  · obtain ⟨v, rfl⟩ := List.length_eq_one_iff.1 hone
    refine ⟨_, _, State.storeAll_fits_byte hp (Nat.not_lt.2 hroom) v, runMicros_cons (runMicro_idle ?_), ?_,
      State.ret_answer _ _ _ _⟩
    · simpa using hidle
    · rw [State.ret_buf, State.buf_setBuf]
      exact hheld
  · have hlen : 2 ≤ bs.length := by
      have := List.length_pos_of_ne_nil hbs
      omega
    obtain ⟨u, hrun, hactor, hlane, hbuf⟩ := runMicros_putSteps
      (s := s.begin (putSteps b bs) (some ⟨.ok, .none, half bs.length, 0⟩)) (a := s.actor) (b := b) hbs
      (by simpa using hr.1.1) (by simpa using hp) (State.begin_lane _ _ _)
    refine ⟨_, u, State.storeAll_fits_bytes hlen (Nat.not_lt.2 hroom), by rwa [State.begin_actor], ?_, ?_⟩
    · rw [hbuf, State.begin_buf]
      exact hheld
    · unfold State.answer
      rw [hactor, hlane]

theorem Format.encData_ne_nil (f : Format) (esc v : Byte) : f.encData esc v ≠ [] := by
  rw [Format.encData_eq]
  split
  · split
    · nofun
    · nofun
  · nofun

theorem litBytes_ne_nil (quote v : Byte) : litBytes quote v ≠ [] := by
  unfold litBytes
  split
  · nofun
  · nofun

end Encode

/-- Settles O41: each accepted operation is `storeAll` of the bytes of its symbol. -/
theorem encodeAppends : Obligations.EncodeAppends := by
  unfold Obligations.EncodeAppends
  intro b i bytes s hr ho hs hidle hroom hcases
  have hstore : exec i s = s.storeAll b bytes ∧ bytes ≠ [] := by
    obtain ⟨v, rfl, rfl⟩ | ⟨c, rfl, hrep, rfl⟩ | ⟨rfl, hhex, rfl⟩ | ⟨v, rfl, hhex, rfl⟩ := hcases
    · exact ⟨execEncData_stores hr hs, Format.encData_ne_nil _ _ _⟩
    · obtain ⟨hesc, hc⟩ := Bool.and_eq_true_iff.1 hrep
      exact ⟨execEncCtrl_stores hr hesc hs (bne_iff_ne.1 hc), nofun⟩
    · exact ⟨execEncQuote_stores hr hhex hs, nofun⟩
    · exact ⟨execEncLit_stores hr hhex hs, litBytes_ne_nil _ _⟩
  rw [hstore.1]
  exact State.storeAll_appends hr ho hidle hstore.2 hroom

/-- Settles O38: the bytes are two or one, and `storeAll` stores all of them or none. -/
theorem encDataRule : Obligations.EncDataRule := by
  unfold Obligations.EncDataRule
  refine ⟨fun b v => encode_byte rfl rfl, fun b v s hr ho => ?_⟩
  obtain ⟨hp, -⟩ := ho.1 hr.2
  dsimp only
  split
  · exact State.command_first hr ‹_›
  have hexec : exec (.encData b v) s = _ := execEncData_stores hr (Bool.eq_false_iff.2 ‹_›)
  rw [hexec, State.dataBytes, Format.encData_eq, State.esc]
  by_cases htwo : (s.buf b).fmt = .ascii ∨ (s.buf b).fmt = .asciiEscaped ∨
      ((s.buf b).fmt = .binaryEscaped ∧ v = (s.par.buf b).esc)
  · simp only [if_pos htwo]
    by_cases hbin : (s.buf b).fmt = .binaryEscaped
    · simp only [if_pos hbin]
      exact s.storeAll_pair b v v
    · simp only [if_neg hbin]
      exact s.storeAll_pair b _ _
  · simp only [if_neg htwo]
    exact State.storeAll_byte hp v

/-- Settles O39: the cases are the checks of R186 in their order. -/
theorem encCtrlRule : Obligations.EncCtrlRule := by
  unfold Obligations.EncCtrlRule
  refine ⟨fun b c => encode_byte rfl rfl, fun b c s hr => ?_⟩
  dsimp only
  split
  · exact State.command_first hr (by simp [Format.escaped_eq_false_iff.2 ‹_›])
  have hesc : (s.buf b).fmt.escaped = true := Bool.eq_true_of_not_eq_false (mt Format.escaped_eq_false_iff.1 ‹_›)
  split
  · exact State.command_second hr (by simp [hesc]) ‹_›
  have hs : (s.buf b).shv = false := Bool.eq_false_iff.2 ‹_›
  split
  · exact execEncCtrl_range hr hesc hs ‹_›
  · exact (execEncCtrl_stores hr hesc hs ‹_›).trans (s.storeAll_pair b _ _)

/-- Settles O40: the cases are the checks of R187 and R188 in their order. -/
theorem encLiteralRules : Obligations.EncLiteralRules := by
  unfold Obligations.EncLiteralRules
  refine ⟨fun b v => ⟨encode_plain rfl rfl, encode_byte rfl rfl⟩, fun b v s hr ho => ?_⟩
  obtain ⟨hp, -⟩ := ho.1 hr.2
  dsimp only
  split
  · have hhex := Format.hex_eq_false_iff.2 ‹_›
    exact ⟨State.command_first hr (by simp [hhex]), State.command_first hr (by simp [hhex])⟩
  have hhex : (s.buf b).fmt.hex = true := Bool.eq_true_of_not_eq_false (mt Format.hex_eq_false_iff.1 ‹_›)
  split
  · exact ⟨State.command_second hr (by simp [hhex]) ‹_›, State.command_second hr (by simp [hhex]) ‹_›⟩
  have hs : (s.buf b).shv = false := Bool.eq_false_iff.2 ‹_›
  refine ⟨(execEncQuote_stores hr hhex hs).trans (State.storeAll_byte hp _), (execEncLit_stores hr hhex hs).trans ?_⟩
  rw [litBytes, State.quote]
  by_cases hv : v = (s.par.buf b).quote
  · simp only [if_pos hv]
    exact s.storeAll_pair b _ _
  · simp only [if_neg hv]
    exact State.storeAll_byte hp v

end Sys2Proof.Machine

/-! ## EscapeCodec: decoding -/

namespace Sys2Proof.Machine

/-- The state after the one or two reads of a decode (43_codec.md R189). -/
def State.decodeReads (s : State) (b : BufSel) : State :=
  let q := s.buf b
  let t := s.afterRead b q.get.toNat
  if q.count < 2 then t else t.afterRead b (q.add q.get.toNat 1)

/-- What the decode function `dec` finds at `get` (43_codec.md R189). -/
def State.decoded (s : State) (b : BufSel) (dec : Nat → Byte → Byte → Except Status Symbol) : Except Status Symbol :=
  let q := s.buf b
  dec q.count (s.byteAt b q.get.toNat) ((s.afterRead b q.get.toNat).byteAt b (q.add q.get.toNat 1))

/-- The end of a decode, `f` being what it does with a symbol (43_codec.md R190, R191). -/
def State.decodeEnd (f : Symbol → State → State) (t : State) : Except Status Symbol → State
  | .error st => t.refuse st
  | .ok y => f y t

/-- A whole decode (43_codec.md R189). -/
def State.afterDecode (s : State) (b : BufSel) (dec : Nat → Byte → Byte → Except Status Symbol)
    (f : Symbol → State → State) : State :=
  if (s.buf b).count = 0 then s.refuse .nodata else State.decodeEnd f (s.decodeReads b) (s.decoded b dec)

/-- What a peek does with a symbol (43_codec.md R190). -/
def State.peeked (y : Symbol) (t : State) : State := t.ret y.kind y.val.toNat y.size

/-- What a get does with a symbol (43_codec.md R191). -/
def State.taken (b : BufSel) (y : Symbol) (t : State) : State :=
  (t.setGet b ((t.buf b).add (t.buf b).get.toNat y.size)).ret y.kind y.val.toNat y.size

section Decode

variable {s : State} {b : BufSel} {dec : Nat → Byte → Byte → Except Status Symbol}

/-! ### One decode -/

theorem State.decodeReads_eq (s : State) (b : BufSel) : ∃ d, s.decodeReads b = { s with draws := d } := by
  obtain ⟨d, hd, -⟩ := s.afterRead_eq b (s.buf b).get.toNat
  unfold State.decodeReads
  dsimp only
  rw [hd]
  split
  · exact ⟨d, rfl⟩
  · obtain ⟨e, he, -⟩ := State.afterRead_eq { s with draws := d } b ((s.buf b).add (s.buf b).get.toNat 1)
    exact ⟨e, he⟩

@[simp] theorem State.decodeReads_buf (s : State) (b c : BufSel) : (s.decodeReads b).buf c = s.buf c := by
  obtain ⟨d, hd⟩ := s.decodeReads_eq b
  rw [hd, State.draws_buf]

/-- The second byte is read only if it is held, and then at an offset below `cap`. -/
theorem State.withTwoBytes_eq (hget : (s.buf b).get.toNat < (s.buf b).cap.toNat) (k : Byte → Byte → State → Result) :
    s.withTwoBytes b k = k (s.byteAt b (s.buf b).get.toNat)
      (if (s.buf b).count < 2 then s.byteAt b (s.buf b).get.toNat
        else (s.afterRead b (s.buf b).get.toNat).byteAt b ((s.buf b).add (s.buf b).get.toNat 1))
      (s.decodeReads b) := by
  have hnext : (s.buf b).add (s.buf b).get.toNat 1 < (s.buf b).cap.toNat := Buffer.add_lt (Nat.zero_lt_of_lt hget)
  unfold State.withTwoBytes State.decodeReads
  dsimp only
  rw [State.withByte_below hget, State.afterRead_buf]
  split
  · rfl
  · rw [State.withByte_below (by rwa [State.afterRead_buf])]

theorem State.decodeWith_eq (hget : (s.buf b).get.toNat < (s.buf b).cap.toNat) (hdec : NeedsHeld dec)
    (f : Symbol → State → State) :
    s.decodeWith b dec (fun y t => .next (f y t)) = .next (s.afterDecode b dec f) := by
  unfold State.decodeWith State.afterDecode
  split
  · rfl
  rw [State.withTwoBytes_eq hget]
  have hsecond : dec (s.buf b).count (s.byteAt b (s.buf b).get.toNat)
      (if (s.buf b).count < 2 then s.byteAt b (s.buf b).get.toNat
        else (s.afterRead b (s.buf b).get.toNat).byteAt b ((s.buf b).add (s.buf b).get.toNat 1)) = s.decoded b dec := by
    split
    · exact hdec ‹_›
    · rfl
  dsimp only
  rw [hsecond]
  cases s.decoded b dec with
  | error st => rfl
  | ok y => rfl

/-- The decode function of the buffer's format, in normal mode (43_codec.md R189). -/
def State.normalDecoder (s : State) (b : BufSel) : Nat → Byte → Byte → Except Status Symbol :=
  (s.buf b).fmt.decodeNormal (s.esc b) (s.quote b)

theorem exec_decPeek_eq (hr : s.ready .get b) (ho : (s.buf b).offsetsOk) :
    exec (.decPeek b) s = .next (s.afterDecode b (s.normalDecoder b) State.peeked) :=
  (State.command_ready hr).trans (State.decodeWith_eq (ho.1 hr.2).2 (Format.needsHeld_decodeNormal _) _)

theorem exec_decGet_eq (hr : s.ready .get b) (ho : (s.buf b).offsetsOk) :
    exec (.decGet b) s = .next (s.afterDecode b (s.normalDecoder b) (State.taken b)) :=
  (State.command_ready hr).trans (State.decodeWith_eq (ho.1 hr.2).2 (Format.needsHeld_decodeNormal _) _)

/-- Literal mode: its format check, then the decode (43_codec.md R189). -/
theorem State.decodeLiteral_eq (hget : (s.buf b).get.toNat < (s.buf b).cap.toNat) (f : Symbol → State → State) :
    s.decodeLiteral b (fun y t => .next (f y t)) = .next (if (s.buf b).fmt.hex = false then s.refuse .format
      else s.afterDecode b (Machine.decodeLiteral (s.quote b)) f) := by
  unfold State.decodeLiteral
  rw [State.decodeWith_eq hget needsHeld_decodeLiteral]
  cases (s.buf b).fmt.hex with
  | false => rfl
  | true => rfl

theorem exec_decPeekl_eq (hr : s.ready .get b) (ho : (s.buf b).offsetsOk) :
    exec (.decPeekl b) s = .next (if (s.buf b).fmt.hex = false then s.refuse .format
      else s.afterDecode b (decodeLiteral (s.quote b)) State.peeked) :=
  (State.command_ready hr).trans (State.decodeLiteral_eq (ho.1 hr.2).2 _)

theorem exec_decGetl_eq (hr : s.ready .get b) (ho : (s.buf b).offsetsOk) :
    exec (.decGetl b) s = .next (if (s.buf b).fmt.hex = false then s.refuse .format
      else s.afterDecode b (decodeLiteral (s.quote b)) (State.taken b)) :=
  (State.command_ready hr).trans (State.decodeLiteral_eq (ho.1 hr.2).2 _)

theorem State.afterDecode_empty (hc : (s.buf b).count = 0) (f : Symbol → State → State) :
    s.afterDecode b dec f = s.refuse .nodata := if_pos hc

theorem State.afterDecode_error {st : Status} (hc : (s.buf b).count ≠ 0) (h : s.decoded b dec = .error st)
    (f : Symbol → State → State) : s.afterDecode b dec f = (s.decodeReads b).refuse st := by
  rw [State.afterDecode, if_neg hc, h]
  rfl

theorem State.afterDecode_ok {y : Symbol} (hc : (s.buf b).count ≠ 0) (h : s.decoded b dec = .ok y)
    (f : Symbol → State → State) : s.afterDecode b dec f = f y (s.decodeReads b) := by
  rw [State.afterDecode, if_neg hc, h]
  rfl

theorem State.taken_eq {t : State} {q : Buffer} (hq : t.buf b = q) (y : Symbol) : State.taken b y t =
    (t.setBuf b { q with get := half (q.add q.get.toNat y.size) }).ret y.kind y.val.toNat y.size := by
  rw [← hq]
  rfl

/-- The results of the literal mode in the order of 43_codec.md R189. -/
theorem State.decodeEnd_literal (f : Symbol → State → State) (t : State) (quote : Byte) (c : Nat) (b0 b1 : Byte) :
    State.decodeEnd f t (Machine.decodeLiteral quote c b0 b1) =
      if b0 ≠ quote then f ⟨.data, b0, 1⟩ t
      else if c < 2 then t.refuse .nodata
      else if b1 = quote then f ⟨.data, quote, 2⟩ t
      else f ⟨.qclose, quote, 1⟩ t := by
  unfold Machine.decodeLiteral
  rw [ite_not]
  simp only [apply_ite (State.decodeEnd f t)]
  rfl

/-! ### Peek and get -/

/-- `t` and `u` are the states after a peek and a get on `s` (43_codec.md R195). -/
def State.PeekGet (s : State) (b : BufSel) (t u : State) : Prop :=
  t.answer = u.answer ∧ (t.buf b).get = (s.buf b).get ∧
    ∃ r, u.answer = some r ∧
      (u.buf b).get = half (((s.buf b).get.toNat + (if r.st = .ok then r.b.toNat else 0)) % (s.buf b).cap.toNat)

theorem State.PeekGet.refuse {t : State} {st : Status} (hget : (s.buf b).get.toNat < (s.buf b).cap.toNat)
    (hst : st ≠ .ok) (ht : t.buf b = s.buf b) : s.PeekGet b (t.refuse st) (t.refuse st) := by
  have hsame : ((t.refuse st).buf b).get = (s.buf b).get := by rw [State.refuse_buf, ht]
  refine ⟨rfl, hsame, _, State.refuse_answer _ _, hsame.trans ?_⟩
  rw [if_neg hst, Nat.add_zero, Nat.mod_eq_of_lt hget, half_toNat_self]

theorem State.PeekGet.symbol {t : State} {y : Symbol} (hy : y.size < 65536) (ht : t.buf b = s.buf b) :
    s.PeekGet b (State.peeked y t) (State.taken b y t) := by
  refine ⟨?_, ?_, _, State.ret_answer _ _ _ _, ?_⟩
  · exact (State.ret_answer _ _ _ _).trans (State.ret_answer _ _ _ _).symm
  · rw [State.peeked, State.ret_buf, ht]
  · rw [State.taken_eq ht, State.ret_buf, State.buf_setBuf, if_pos rfl, half_toNat hy]
    rfl

theorem State.PeekGet.afterDecode (hr : s.ready .get b) (ho : (s.buf b).offsetsOk)
    (herr : ∀ {c b0 b1}, dec c b0 b1 ≠ .error .ok) (hsize : ∀ {c b0 b1 y}, c ≠ 0 → dec c b0 b1 = .ok y → y.size ≤ c) :
    s.PeekGet b (s.afterDecode b dec State.peeked) (s.afterDecode b dec (State.taken b)) := by
  obtain ⟨hp, hg⟩ := ho.1 hr.2
  by_cases hc : (s.buf b).count = 0
  · rw [State.afterDecode_empty hc, State.afterDecode_empty hc]
    exact State.PeekGet.refuse hg nofun rfl
  cases h : s.decoded b dec with
  | error st =>
    rw [State.afterDecode_error hc h, State.afterDecode_error hc h]
    exact State.PeekGet.refuse hg (fun e => herr (e ▸ h)) (s.decodeReads_buf b b)
  | ok y =>
    rw [State.afterDecode_ok hc h, State.afterDecode_ok hc h]
    have hy : y.size ≤ (s.buf b).count := hsize hc h
    have hcount := Buffer.count_lt_cap hp hg
    have hcap := (s.buf b).cap_lt
    exact State.PeekGet.symbol (by omega) (s.decodeReads_buf b b)

theorem decodeHex_ne_error_ok {quote : Byte} {c : Nat} {b0 b1 : Byte} : decodeHex quote c b0 b1 ≠ .error .ok := by
  rw [decodeHex_eq]
  repeat' split
  all_goals nofun

/-- A refusal is not `OK` (60_exceptions.md R241). -/
theorem Format.decodeNormal_ne_error_ok {f : Format} {esc quote : Byte} {c : Nat} {b0 b1 : Byte} :
    f.decodeNormal esc quote c b0 b1 ≠ .error .ok := by
  have hpair : (if c < 2 then Except.error Status.nodata
      else if b1 = esc then .ok ⟨.data, esc, 2⟩ else .ok (⟨.ctrl, b1, 2⟩ : Symbol)) ≠ .error .ok := by
    repeat' split
    all_goals nofun
  cases f with
  | none => simp only [Format.decodeNormal]; nofun
  | binary => simp only [Format.decodeNormal]; nofun
  | binaryEscaped =>
    simp only [Format.decodeNormal]
    split
    · exact hpair
    · nofun
  | ascii => exact decodeHex_ne_error_ok
  | asciiEscaped =>
    simp only [Format.decodeNormal]
    split
    · exact hpair
    · exact decodeHex_ne_error_ok

theorem decodeLiteral_ne_error_ok {quote : Byte} {c : Nat} {b0 b1 : Byte} :
    decodeLiteral quote c b0 b1 ≠ .error .ok := by
  unfold decodeLiteral
  repeat' split
  all_goals nofun

end Decode

/-- Settles O43: both operations are the normal-mode decode, with their own end. -/
theorem decNormalRules : Obligations.DecNormalRules := by
  unfold Obligations.DecNormalRules
  refine ⟨fun b => ⟨encode_plain rfl rfl, encode_plain rfl rfl⟩, fun b s hr ho => ?_⟩
  dsimp only
  rw [exec_decPeek_eq hr ho, exec_decGet_eq hr ho]
  refine ⟨fun hc => ?_, fun hc st h => ?_, fun hc y h => ?_⟩
  · rw [State.afterDecode_empty hc, State.afterDecode_empty hc]
    exact ⟨rfl, rfl⟩
  · have hdec : s.decoded b (s.normalDecoder b) = .error st := h
    rw [State.afterDecode_error hc hdec, State.afterDecode_error hc hdec]
    exact ⟨rfl, rfl⟩
  · have hdec : s.decoded b (s.normalDecoder b) = .ok y := h
    rw [State.afterDecode_ok hc hdec, State.afterDecode_ok hc hdec, State.taken_eq (s.decodeReads_buf b b)]
    exact ⟨rfl, rfl⟩

/-- Settles O44: both operations are the literal-mode decode, with their own end. -/
theorem decLiteralRules : Obligations.DecLiteralRules := by
  unfold Obligations.DecLiteralRules
  refine ⟨fun b => ⟨encode_plain rfl rfl, encode_plain rfl rfl⟩, fun b s hr ho => ?_⟩
  dsimp only
  rw [exec_decPeekl_eq hr ho, exec_decGetl_eq hr ho]
  simp only [State.afterDecode, State.decoded, State.decodeEnd_literal, State.taken_eq (s.decodeReads_buf b b),
    Format.hex_eq_false_iff]
  exact ⟨rfl, rfl⟩

/-- Settles O45: both operations of a pair end the same decode. -/
theorem peekGetLaw : Obligations.PeekGetLaw := by
  unfold Obligations.PeekGetLaw
  intro b s t u hr ho h
  show s.PeekGet b t u
  rw [exec_decPeek_eq hr ho, exec_decGet_eq hr ho, exec_decPeekl_eq hr ho, exec_decGetl_eq hr ho] at h
  obtain ⟨⟨⟩, ⟨⟩⟩ | ⟨⟨⟩, ⟨⟩⟩ := h
  · exact State.PeekGet.afterDecode hr ho Format.decodeNormal_ne_error_ok Format.decodeNormal_size
  · split
    · exact State.PeekGet.refuse (ho.1 hr.2).2 nofun rfl
    · exact State.PeekGet.afterDecode hr ho decodeLiteral_ne_error_ok decodeLiteral_size

end Sys2Proof.Machine

/-! ## EscapeCodec: the round trip -/

namespace Sys2Proof.Machine

open Sys2Proof.Config

/-- The decode function `dec` reads the bytes `bs`, which are one or two, as one result, whatever is held behind them. -/
inductive Decodes (dec : Nat → Byte → Byte → Except Status Symbol) : List Byte → Kind → Byte → Prop where
  | one {x val : Byte} {kind : Kind} (h : ∀ c b1, dec c x b1 = .ok ⟨kind, val, 1⟩) : Decodes dec [x] kind val
  | two {x y val : Byte} {kind : Kind} (h : ∀ c, 2 ≤ c → dec c x y = .ok ⟨kind, val, 2⟩) : Decodes dec [x, y] kind val

/-- `t` is a state after a get-style decode on `s` that answered `r`: the bytes `rest` are still held, and the next decode
finds the engine as this one did. -/
structure State.DecodedTo (s : State) (b : BufSel) (r : Response) (rest : List (Option Byte)) (t : State) : Prop where
  answer : t.answer = some r
  held : (t.buf b).held = rest
  ready : t.ready .get b
  offsets : (t.buf b).offsetsOk
  par : t.par = s.par
  fmt : (t.buf b).fmt = (s.buf b).fmt

/-- The kind by which a symbol is answered (43_codec.md R189). -/
def CodecSymbol.kind : CodecSymbol → Kind
  | .data _ => .data
  | .control _ => .ctrl

/-- The byte of a symbol. -/
def CodecSymbol.val : CodecSymbol → Byte
  | .data v => v
  | .control c => c

section Symbols

variable {esc quote : Byte} {f : Format}

theorem CodecSymbol.response_eq (y : CodecSymbol) (n : Nat) :
    y.response n = ⟨.ok, y.kind, half y.val.toNat, half n⟩ := by
  cases y with
  | data v => rfl
  | control c => rfl

theorem ne_of_hexVal {x : Byte} {n : Nat} (hx : hexVal x = some n) (hesc : hexVal esc = none) : x ≠ esc := by
  rintro rfl
  rw [hx] at hesc
  cases hesc

theorem decodes_hexPair (hquote : hexVal quote = none) (v : Byte) :
    Decodes (decodeHex quote) (hexPair v) .data v :=
  .two fun _ hc => by
    rw [decodeHex_pair (ne_of_hexVal (hexVal_high v) hquote) (hexVal_high v) (hexVal_low v) hc, ofNat_digits]

/-- The constraints of 00_scope.md R6 make the decode of an encoded symbol unambiguous: no digit is `ESC` or `QUOTE`. -/
theorem CodecSymbol.decodes (hesc : hexVal esc = none) (hquote : hexVal quote = none) {y : CodecSymbol}
    (hy : y.representable f esc = true) : Decodes (f.decodeNormal esc quote) (y.bytes f esc) y.kind y.val := by
  cases y with
  | data v =>
    cases f with
    | none => exact .one fun _ _ => rfl
    | binary => exact .one fun _ _ => rfl
    | binaryEscaped =>
      simp only [CodecSymbol.bytes, Format.encData]
      split
      · next hv =>
        subst hv
        exact .two fun c hc => by simp [Format.decodeNormal, Nat.not_lt.2 hc, CodecSymbol.kind, CodecSymbol.val]
      · next hv => exact .one fun _ _ => if_neg hv
    | ascii => exact decodes_hexPair hquote v
    | asciiEscaped =>
      cases decodes_hexPair hquote v with
      | two h => exact .two fun c hc => (if_neg (ne_of_hexVal (hexVal_high v) hesc)).trans (h c hc)
  | control c =>
    obtain ⟨hf, hc⟩ := Bool.and_eq_true_iff.1 hy
    have hne : c ≠ esc := bne_iff_ne.1 hc
    refine .two fun n hn => ?_
    cases f with
    | none => cases hf
    | binary => cases hf
    | binaryEscaped => simp [Format.decodeNormal, Nat.not_lt.2 hn, hne, CodecSymbol.kind, CodecSymbol.val]
    | ascii => cases hf
    | asciiEscaped => simp [Format.decodeNormal, Nat.not_lt.2 hn, hne, CodecSymbol.kind, CodecSymbol.val]

/-- The opening quote (43_codec.md R183). -/
theorem decodes_quote (hf : f.hex = true) (hne : esc ≠ quote) :
    Decodes (f.decodeNormal esc quote) [quote] .quote quote := by
  refine .one fun _ _ => ?_
  cases f with
  | none => cases hf
  | binary => cases hf
  | binaryEscaped => cases hf
  | ascii => exact if_pos rfl
  | asciiEscaped => exact (if_neg hne.symm).trans (if_pos rfl)

/-- A byte of literal text (43_codec.md R183). -/
theorem decodes_litBytes (quote v : Byte) : Decodes (decodeLiteral quote) (litBytes quote v) .data v := by
  unfold litBytes
  split
  · next hv =>
    subst hv
    exact .two fun c hc => by simp [decodeLiteral, Nat.not_lt.2 hc]
  · next hv => exact .one fun _ _ => if_neg hv

theorem Params.ok_codec {p : Params} (h : p.ok = true) (b : BufSel) :
    (p.buf b).esc ≠ (p.buf b).quote ∧ hexVal (p.buf b).esc = none ∧ hexVal (p.buf b).quote = none := by
  have hbuf : (p.buf b).ok p.minCap = true := by
    obtain ⟨htx, hrx⟩ := Bool.and_eq_true_iff.1 (Bool.and_eq_true_iff.1 h).1
    cases b with
    | tx => exact htx
    | rx => exact hrx
  simp only [BufParams.ok, Bool.and_eq_true, decide_eq_true_eq, Option.isNone_iff_eq_none] at hbuf
  obtain ⟨⟨⟨-, -, -, hne⟩, hesc⟩, hquote⟩ := hbuf
  exact ⟨hne, hesc, hquote⟩

end Symbols

section RoundTrip

variable {s : State} {b : BufSel} {dec : Nat → Byte → Byte → Except Status Symbol}

/-! ### A decode of held bytes -/

/-- The first byte that a decode sees is the oldest held one. -/
theorem State.decoded_of_held (hget : (s.buf b).get.toNat < (s.buf b).cap.toNat) {x : Byte} {l : List (Option Byte)}
    (hheld : (s.buf b).held = some x :: l) : ∃ y, s.decoded b dec = dec (s.buf b).count x y ∧
      ∀ z l', l = some z :: l' → y = z := by
  obtain ⟨-, hread⟩ := Buffer.held_read (q := s.buf b) (k := 0) (v := x) (by rw [hheld]; rfl)
  have hzero : (s.buf b).add (s.buf b).get.toNat 0 = (s.buf b).get.toNat := Nat.mod_eq_of_lt hget
  obtain ⟨hbyte, hafter⟩ := State.read_written (hzero ▸ hread)
  refine ⟨s.byteAt b ((s.buf b).add (s.buf b).get.toNat 1), by rw [State.decoded, hbyte, hafter], ?_⟩
  rintro z l' rfl
  obtain ⟨-, hsecond⟩ := Buffer.held_read (q := s.buf b) (k := 1) (v := z) (by rw [hheld]; rfl)
  exact (State.read_written hsecond).1

theorem Decodes.decoded {bs : List Byte} {kind : Kind} {val : Byte} (h : Decodes dec bs kind val)
    (hget : (s.buf b).get.toNat < (s.buf b).cap.toNat) {l : List (Option Byte)}
    (hheld : (s.buf b).held = bs.map some ++ l) : s.decoded b dec = .ok ⟨kind, val, bs.length⟩ := by
  cases h with
  | one h =>
    obtain ⟨y, hy, -⟩ := State.decoded_of_held (dec := dec) hget hheld
    rw [hy]
    exact h _ _
  | two h =>
    obtain ⟨y, hy, hsecond⟩ := State.decoded_of_held (dec := dec) hget hheld
    have hcount : 2 ≤ (s.buf b).count := by simp [← Buffer.held_length, hheld]
    rw [hy, hsecond _ _ rfl]
    exact h _ hcount

/-- A get-style decode of `n` held bytes takes just these (43_codec.md R191, R193). -/
theorem State.afterDecode_taken (hr : s.ready .get b) (ho : (s.buf b).offsetsOk) {n : Nat} {kind : Kind} {val : Byte}
    {rest : List (Option Byte)} (hdec : s.decoded b dec = .ok ⟨kind, val, n⟩) (hpos : 0 < n)
    (hn : n ≤ (s.buf b).count) (hrest : (s.buf b).held.drop n = rest) :
    s.DecodedTo b ⟨.ok, kind, half val.toNat, half n⟩ rest (s.afterDecode b dec (State.taken b)) := by
  obtain ⟨hp, hg⟩ := ho.1 hr.2
  obtain ⟨d, hd⟩ := s.decodeReads_eq b
  have hcap : 0 < (s.buf b).cap.toNat := Nat.zero_lt_of_lt hg
  rw [State.afterDecode_ok (by omega) hdec, State.taken_eq (s.decodeReads_buf b b), hd]
  refine ⟨State.ret_answer _ _ _ _, ?_, ?_, ?_, by simp, by simp⟩
  · rw [State.ret_buf, State.buf_setBuf, Buffer.held_take hp hg hn, hrest]
  · have hready : State.ready { s with draws := d } .get b := by rwa [State.ready, State.draws_buf]
    exact (State.ready_setBuf_ret (State.draws_buf s d b ▸ rfl)).2 hready
  · rw [State.ret_buf, State.buf_setBuf]
    exact ⟨fun _ => ⟨hp, by rw [Buffer.half_add hcap]; exact Buffer.add_lt hcap⟩, fun hc => absurd hc hr.2⟩

theorem Decodes.afterDecode {bs : List Byte} {kind : Kind} {val : Byte} (h : Decodes dec bs kind val)
    (hr : s.ready .get b) (ho : (s.buf b).offsetsOk) {rest : List (Option Byte)}
    (hheld : (s.buf b).held = bs.map some ++ rest) :
    s.DecodedTo b ⟨.ok, kind, half val.toNat, half bs.length⟩ rest (s.afterDecode b dec (State.taken b)) := by
  have hpos : 0 < bs.length := by
    cases h with
    | one => exact Nat.succ_pos _
    | two => exact Nat.succ_pos _
  refine State.afterDecode_taken hr ho (h.decoded (ho.1 hr.2).2 hheld) hpos ?_ ?_
  · simp [← Buffer.held_length, hheld]
  · rw [hheld]
    exact List.drop_left' (by simp)

theorem exec_decGet_decodes {bs : List Byte} {kind : Kind} {val : Byte} (hr : s.ready .get b)
    (ho : (s.buf b).offsetsOk) (h : Decodes (s.normalDecoder b) bs kind val) {rest : List (Option Byte)}
    (hheld : (s.buf b).held = bs.map some ++ rest) :
    ∃ t, exec (.decGet b) s = .next t ∧ s.DecodedTo b ⟨.ok, kind, half val.toNat, half bs.length⟩ rest t :=
  ⟨_, exec_decGet_eq hr ho, h.afterDecode hr ho hheld⟩

theorem exec_decGetl_hex (hr : s.ready .get b) (ho : (s.buf b).offsetsOk) (hhex : (s.buf b).fmt.hex = true) :
    exec (.decGetl b) s = .next (s.afterDecode b (decodeLiteral (s.quote b)) (State.taken b)) := by
  rw [exec_decGetl_eq hr ho, hhex, if_neg nofun]

/-- The closing quote is told from a doubled one by the byte behind it, which stays held (43_codec.md R193). -/
theorem exec_decGetl_closes (hr : s.ready .get b) (ho : (s.buf b).offsetsOk) (hhex : (s.buf b).fmt.hex = true)
    {x : Byte} {more : List (Option Byte)} (hx : x ≠ s.quote b)
    (hheld : (s.buf b).held = some (s.quote b) :: some x :: more) :
    ∃ t, exec (.decGetl b) s = .next t ∧
      s.DecodedTo b ⟨.ok, .qclose, half (s.quote b).toNat, 1⟩ (some x :: more) t := by
  have hcount : 2 ≤ (s.buf b).count := by simp [← Buffer.held_length, hheld]
  obtain ⟨y, hy, hsecond⟩ := State.decoded_of_held (dec := decodeLiteral (s.quote b)) (ho.1 hr.2).2 hheld
  have hclose : s.decoded b (decodeLiteral (s.quote b)) = .ok ⟨.qclose, s.quote b, 1⟩ := by
    rw [hy, hsecond _ _ rfl, decodeLiteral, if_pos rfl, if_neg (Nat.not_lt.2 hcount), if_neg hx]
  exact ⟨_, exec_decGetl_hex hr ho hhex,
    State.afterDecode_taken hr ho hclose Nat.one_pos (Nat.le_of_succ_le hcount) (by rw [hheld]; rfl)⟩

/-! ### Sequences -/

theorem execTrace_decGet {ys : List CodecSymbol} (hpar : s.par.ok = true) (hr : s.ready .get b)
    (ho : (s.buf b).offsetsOk) (hys : ∀ y ∈ ys, y.representable (s.buf b).fmt (s.esc b) = true)
    (hheld : (s.buf b).held = (ys.flatMap (CodecSymbol.bytes (s.buf b).fmt (s.esc b))).map some) :
    ∃ t, execTrace (List.replicate ys.length (.decGet b)) s =
        some (ys.map (fun y => some (y.response (y.bytes (s.buf b).fmt (s.esc b)).length)), t) ∧
      (t.buf b).held = [] := by
  induction ys generalizing s with
  | nil => exact ⟨s, rfl, hheld⟩
  | cons y ys ih =>
    obtain ⟨-, hesc, hquote⟩ := Params.ok_codec hpar b
    rw [List.flatMap_cons, List.map_append] at hheld
    obtain ⟨t, hexec, hanswer, hrest, hready, hoffsets, hpar', hfmt⟩ :=
      exec_decGet_decodes hr ho (CodecSymbol.decodes hesc hquote (hys y List.mem_cons_self)) hheld
    have hesc' : t.esc b = s.esc b := by rw [State.esc, hpar', State.esc]
    have hothers := ih (hpar' ▸ hpar) hready hoffsets
    rw [hfmt, hesc'] at hothers
    obtain ⟨u, htrace, hempty⟩ := hothers (fun y hy => hys y (List.mem_cons_of_mem _ hy)) hrest
    refine ⟨u, ?_, hempty⟩
    rw [List.length_cons, List.replicate_succ, execTrace_cons hexec htrace, hanswer, List.map_cons,
      CodecSymbol.response_eq]
    rfl

theorem execTrace_decGetl {ts : List Byte} {x : Byte} {more : List (Option Byte)} (hr : s.ready .get b)
    (ho : (s.buf b).offsetsOk) (hhex : (s.buf b).fmt.hex = true) (hx : x ≠ s.quote b)
    (hheld : (s.buf b).held = (ts.flatMap (litBytes (s.quote b)) ++ [s.quote b, x]).map some ++ more) :
    ∃ t, execTrace (List.replicate (ts.length + 1) (.decGetl b)) s =
        some (ts.map (fun v => some ⟨.ok, .data, half v.toNat, half (litBytes (s.quote b) v).length⟩) ++
          [some ⟨.ok, .qclose, half (s.quote b).toNat, 1⟩], t) ∧
      (t.buf b).held = some x :: more := by
  induction ts generalizing s with
  | nil =>
    obtain ⟨t, hexec, hlast⟩ := exec_decGetl_closes hr ho hhex hx hheld
    refine ⟨t, ?_, hlast.held⟩
    rw [List.length_nil, List.replicate_succ, execTrace_cons hexec rfl, hlast.answer]
    rfl
  | cons v ts ih =>
    rw [List.flatMap_cons, List.append_assoc, List.map_append, List.append_assoc] at hheld
    obtain ⟨t, hexec, hanswer, hrest, hready, hoffsets, hpar', hfmt⟩ : ∃ t, exec (.decGetl b) s = .next t ∧ _ :=
      ⟨_, exec_decGetl_hex hr ho hhex, (decodes_litBytes (s.quote b) v).afterDecode hr ho hheld⟩
    have hquote : t.quote b = s.quote b := by rw [State.quote, hpar', State.quote]
    have hothers := ih hready hoffsets (hfmt ▸ hhex)
    rw [hquote] at hothers
    obtain ⟨u, htrace, hlast⟩ := hothers hx hrest
    refine ⟨u, ?_, hlast⟩
    rw [List.length_cons, List.replicate_succ, execTrace_cons hexec htrace, hanswer]
    rfl

end RoundTrip

/-- Settles O46, by induction on the symbols. -/
theorem codecRoundTrip : Obligations.CodecRoundTrip := by
  unfold Obligations.CodecRoundTrip
  intro b ys s hpar hr ho f esc hys hheld
  exact execTrace_decGet hpar hr ho hys hheld

/-- Settles O47: the opening quote in normal mode, then the text in literal mode by induction on its bytes. -/
theorem literalRoundTrip : Obligations.LiteralRoundTrip := by
  unfold Obligations.LiteralRoundTrip
  intro b ts x more s hpar hr ho hhex quote hx hheld
  obtain ⟨hne, -, -⟩ := Params.ok_codec hpar b
  obtain ⟨t, hexec, hanswer, hrest, hready, hoffsets, hpar', hfmt⟩ :=
    exec_decGet_decodes hr ho (decodes_quote hhex hne) hheld
  have hquote : t.quote b = quote := by rw [State.quote, hpar']
  have htext := execTrace_decGetl (ts := ts) (x := x) (more := more) hready hoffsets (hfmt ▸ hhex)
  rw [hquote] at htext
  obtain ⟨u, htrace, hlast⟩ := htext hx hrest
  refine ⟨u, ?_, hlast⟩
  rw [execTrace_cons hexec htrace, hanswer]
  rfl

end Sys2Proof.Machine

/-! ## PortDriver: the deadline test -/

namespace Sys2Proof.Machine

section Deadline

variable {now d : Word}

theorem elapsed_iff : elapsed now d = true ↔ (now - d).toNat < 2147483648 := decide_eq_true_iff

/-- The distance in ticks, wherever the two ticks stand in the counter's range (44_portdriver.md R221). -/
theorem elapsed_add (d : Word) {n : Nat} (hn : n < 4294967296) :
    elapsed (d + BitVec.ofNat 32 n) d = true ↔ n < 2147483648 := by
  rw [elapsed_iff, BitVec.add_comm, BitVec.add_sub_cancel, BitVec.toNat_ofNat, Nat.mod_eq_of_lt hn]

theorem elapsed_self (d : Word) : elapsed d d = true := by
  rw [elapsed_iff, BitVec.sub_self]
  decide

/-- One tick before the deadline is the largest distance behind it. -/
theorem elapsed_pred (d : Word) : elapsed (d - 1) d = false := by
  have hdist : d - 1 - d = 4294967295#32 := by bv_omega
  rw [← Bool.not_eq_true, elapsed_iff, hdist]
  decide

/-- The half of the range behind the deadline is that of the non-negative signed distances. -/
theorem elapsed_iff_toInt : elapsed now d = true ↔ 0 ≤ (now - d).toInt := by
  rw [elapsed_iff, BitVec.toInt_eq_toNat_cond]
  split <;> omega

end Deadline

/-- Settles O48. -/
theorem elapsedLaw : Obligations.ElapsedLaw := by
  unfold Obligations.ElapsedLaw
  exact ⟨fun d _ hn => elapsed_add d hn, fun d => ⟨elapsed_self d, elapsed_pred d⟩, fun _ _ => elapsed_iff_toInt⟩

end Sys2Proof.Machine

/-! ## PortDriver: the receive drain -/

namespace Sys2Proof.Machine

/-- `RX` after an iteration of the receive drain has read a byte: the byte is put, or dropped where there is no room for it
(44_portdriver.md R216). -/
def Buffer.received (q : Buffer) (v : Byte) : Buffer :=
  if q.cap = 0 ∨ q.isFull = true then { q with err := true } else q.putWritten v

section Drain

variable {s : State} {q : Buffer} {v : Byte} {more : List Byte}

theorem Buffer.putWritten_put_lt (hp : q.put.toNat < q.cap.toNat) (v : Byte) :
    (q.putWritten v).put.toNat < (q.putWritten v).cap.toNat :=
  Buffer.putWritten_put hp v ▸ Buffer.inc_lt (Nat.zero_lt_of_lt hp)

theorem Buffer.received_dropped (h : q.cap = 0 ∨ q.isFull = true) : q.received v = { q with err := true } := if_pos h

theorem Buffer.received_put (h : ¬ (q.cap = 0 ∨ q.isFull = true)) : q.received v = q.putWritten v := if_neg h

/-- What an iteration does with a byte of the peripheral. -/
theorem State.drainByte_cons (ho : s.rx.offsetsOk) (hq : s.per.rxq = v :: more) :
    s.drainByte = .next { s with per := { s.per with rxq := more }, rx := s.rx.received v } := by
  unfold State.drainByte
  simp only [hq]
  by_cases hroom : s.rx.cap = 0 ∨ s.rx.isFull = true
  · rw [Buffer.received_dropped hroom]
    exact if_pos hroom
  · rw [Buffer.received_put hroom]
    exact (if_neg hroom).trans (State.withPut_below (b := .rx) (ho.1 fun hc => hroom (.inl hc)).1)

/-- One iteration of the drain, which stays pending (44_portdriver.md R216). -/
theorem runMicro_drain (hf : s.fault = false) (ho : s.rx.offsetsOk) (hl : s.laneI.todo = [.drain])
    (hq : s.per.rxq = v :: more) :
    runMicro .irq s =
      .next { s with actor := .irq, per := { s.per with rxq := more }, rx := s.rx.received v } := by
  have hlane : (⟨[.drain], s.laneI.reply, s.laneI.out⟩ : Lane) = s.laneI := by rw [← hl]
  rw [runMicro_cons (a := .irq) hf hl]
  show State.drainByte { s with actor := .irq, laneI := ⟨[.drain], s.laneI.reply, s.laneI.out⟩ } = _
  rw [hlane]
  exact State.drainByte_cons ho hq

/-- Bytes that arrive at `RX` are appended as far as they fit, and `err` is set if one of them does not fit
(44_portdriver.md R216). -/
theorem Buffer.foldl_received (vs : List Byte) (hp : q.put.toNat < q.cap.toNat)
    (hg : q.get.toNat < q.cap.toNat) :
    (vs.foldl Buffer.received q).held = q.held ++ (vs.take q.free).map some ∧
      (vs.foldl Buffer.received q).err = (q.err || decide (q.free < vs.length)) := by
  induction vs generalizing q with
  | nil => simp
  | cons v vs ih =>
    have hc : q.cap ≠ 0 := fun hc => by simp [hc] at hp
    rw [List.foldl_cons]
    by_cases hfull : q.isFull = true
    · have hfree : q.free = 0 := (Buffer.isFull_iff_free hp hg).1 hfull
      obtain ⟨hheld, herr⟩ : (vs.foldl Buffer.received { q with err := true }).held =
          q.held ++ (vs.take q.free).map some ∧ _ := ih hp hg
      rw [Buffer.received_dropped (.inr hfull), hheld, herr, hfree]
      simp
    · have hspace : q.isFull = false := Bool.eq_false_iff.2 hfull
      have hfree : (q.putWritten v).free + 1 = q.free := (Buffer.put_counts hp hg hspace _).2
      obtain ⟨hheld, herr⟩ := ih (Buffer.putWritten_put_lt hp v) hg
      have happend : (q.putWritten v).held = q.held ++ [some v] := Buffer.held_put hp hg hspace v
      have hkeep : (q.putWritten v).err = q.err := rfl
      rw [Buffer.received_put fun h => h.elim hc hfull, hheld, herr, happend, hkeep, ← hfree]
      simp

theorem Buffer.received_offsetsOk (ho : q.offsetsOk) (v : Byte) : (q.received v).offsetsOk := by
  by_cases hroom : q.cap = 0 ∨ q.isFull = true
  · rw [Buffer.received_dropped hroom]
    exact ho
  · rw [Buffer.received_put hroom]
    have hc : q.cap ≠ 0 := fun hc => hroom (.inl hc)
    obtain ⟨hp, hg⟩ := ho.1 hc
    exact ⟨fun _ => ⟨Buffer.putWritten_put_lt hp v, hg⟩, fun h0 => absurd h0 hc⟩

/-- The drain run until the peripheral has no byte any more (44_portdriver.md R216). -/
theorem runMicros_drain {vs : List Byte} (hf : s.fault = false) (ho : s.rx.offsetsOk) (hl : s.laneI.todo = [.drain])
    (hq : s.per.rxq = vs) :
    ∃ t, runMicros vs.length .irq s = .next t ∧ t.per.rxq = [] ∧ t.rx = vs.foldl Buffer.received s.rx ∧
      t.tx = s.tx ∧ t.pstate = s.pstate := by
  induction vs generalizing s with
  | nil => exact ⟨s, rfl, hq, rfl, rfl, rfl⟩
  | cons v vs ih =>
    rw [List.length_cons, runMicros_cons (runMicro_drain hf ho hl hq)]
    exact ih hf (Buffer.received_offsetsOk ho v) hl rfl

end Drain

/-- Settles O54: the drain folds the bytes into `RX`. -/
theorem drainAppends : Obligations.DrainAppends := by
  unfold Obligations.DrainAppends
  intro s hf ho hc hl
  obtain ⟨hp, hg⟩ := ho.1 hc
  obtain ⟨t, hrun, hempty, hrx, htx, hpstate⟩ := runMicros_drain hf ho hl rfl
  obtain ⟨hheld, herr⟩ := Buffer.foldl_received s.per.rxq hp hg
  rw [← hrx] at hheld herr
  exact ⟨t, hrun, hempty, hheld, herr, htx, hpstate⟩

end Sys2Proof.Machine

/-! ## PortDriver: what sets the timeout flag -/

namespace Sys2Proof.Machine

/-- The step from `s` to `t` does not set `toErr`. -/
def RaisesNoTimeout (s t : State) : Prop := t.toErr = true → s.toErr = true

/-- The two states agree in what the deadline test of `EV_TASK` reads (44_portdriver.md R214). -/
def SameTimer (s t : State) : Prop :=
  t.fault = s.fault ∧ t.pstate = s.pstate ∧ t.now = s.now ∧ t.deadline = s.deadline ∧ t.toErr = s.toErr

section Timeout

variable {s t u : State} {b : BufSel} {i : Instr}

theorem RaisesNoTimeout.of_eq (h : t.toErr = s.toErr) : RaisesNoTimeout s t := fun ht => h ▸ ht

theorem SameTimer.refl (s : State) : SameTimer s s := ⟨rfl, rfl, rfl, rfl, rfl⟩

theorem SameTimer.trans_raisesNoTimeout (h : SameTimer s t) (htu : RaisesNoTimeout t u) : RaisesNoTimeout s u := by
  obtain ⟨-, -, -, -, htoErr⟩ := h
  exact fun hu => htoErr ▸ htu hu

/-! ### The instructions -/

theorem Answered.raisesNoTimeout (h : Answered s t) : RaisesNoTimeout s t := by
  obtain ⟨r, d, rfl⟩ := h
  exact .of_eq (State.respond_toErr _ _)

theorem GetEffect.raisesNoTimeout (h : GetEffect s b t) : RaisesNoTimeout s t := by
  obtain ⟨g, d, l, rfl⟩ := h
  exact .of_eq (by rw [State.setLane_toErr, State.setBuf_toErr])

theorem PutKeeps.raisesNoTimeout (h : PutKeeps s b t) : RaisesNoTimeout s t := by
  obtain ⟨-, -, -, -, -, -, -, htoErr, -⟩ := h
  exact .of_eq htoErr

theorem InitKeeps.raisesNoTimeout (h : InitKeeps s b t) : RaisesNoTimeout s t := by
  obtain ⟨-, -, -, -, -, htoErr, -⟩ := h
  exact .of_eq htoErr

theorem execPdClrerr_raisesNoTimeout : Post (RaisesNoTimeout s) (execPdClrerr s) := by
  have hrefuse : ∀ st, RaisesNoTimeout s (s.refuse st) := fun st => (Answered.refuse st).raisesNoTimeout
  refine Post.commandAnytime hrefuse fun _ => post_next.2 fun ht => ?_
  rw [State.ret_toErr, State.clearErr_toErr] at ht
  exact nomatch ht

theorem execEvTxirq_raisesNoTimeout : Post (RaisesNoTimeout s) (execEvTxirq s) := by
  unfold execEvTxirq
  split
  · exact post_next.2 (.of_eq rfl)
  split
  · split
    · exact post_next.2 (.of_eq rfl)
    · exact Post.withPulledByte fun _ _ _ => post_next.2 (.of_eq rfl)
  · exact post_next.2 (.of_eq rfl)

theorem State.withKick_raisesNoTimeout {k : State → Result}
    (hk : ∀ t, t.toErr = s.toErr → Post (RaisesNoTimeout s) (k t)) : Post (RaisesNoTimeout s) (s.withKick k) := by
  unfold State.withKick
  dsimp only
  split
  · exact Post.withPulledByte fun _ _ _ => hk _ rfl
  · exact hk _ rfl

/-- `EV_TASK` sets `toErr` by the timeout only (44_portdriver.md R214, R222). -/
theorem execEvTask_timeout :
    Post (fun t => RaisesNoTimeout s t ∨
      s.fault = false ∧ s.pstate ≠ .idle ∧ elapsed s.now s.deadline = true ∧ t = s.timeout) (execEvTask s) := by
  unfold execEvTask
  split
  · exact post_next.2 (.inl (.of_eq rfl))
  split
  · split
    · exact (State.withKick_raisesNoTimeout fun _ ht => post_next.2 (.of_eq ht)).mono fun _ => .inl
    · exact post_next.2 (.inl (.of_eq rfl))
  split
  · exact post_next.2 (.inr ⟨Bool.eq_false_iff.2 ‹_›, ‹_›, ‹_›, rfl⟩)
  · exact post_next.2 (.inl (.of_eq rfl))

/-- No operation and no other event sets `toErr`. -/
theorem exec_raisesNoTimeout (hi : i ≠ .evTask) : Post (RaisesNoTimeout s) (exec i s) := by
  have hquery : ∀ {r : Result}, Post (Answered s) r → Post (RaisesNoTimeout s) r := fun h =>
    h.mono fun _ => Answered.raisesNoTimeout
  have hget : ∀ {b} {r : Result}, Post (GetEffect s b) r → Post (RaisesNoTimeout s) r := fun h =>
    h.mono fun _ => GetEffect.raisesNoTimeout
  have hput : ∀ {b off} {j : Instr} {r : Result},
      Post (fun t => PutEffect s b off t ∨ i = j ∧ t = s.latchFault.refuse .fault) r → Post (RaisesNoTimeout s) r := by
    intro b off j r h
    refine h.mono fun t ht => ?_
    obtain ht | ⟨-, rfl⟩ := ht
    · exact ht.keeps.raisesNoTimeout
    · exact (latchFault_keeps s b).raisesNoTimeout
  cases i with
  | isempty b | isfull b | count b | free b | rspan b | wspan b | geterr b | peekb b | decPeek b | decPeekl b =>
    exact hquery (exec_query_answered (b := b) (k := 0) (by simp))
  | peekat b k | drd b k => exact hquery (exec_query_answered (b := b) (k := k) (by simp))
  | pdIsbusy | pdStatus => exact hquery (exec_query_answered (b := .tx) (k := 0) (by simp))
  | getb b | pktHas b | pktGetc b | decGet b | decGetl b => exact hget (exec_get_effect (b := b) (n := 0) (by simp))
  | remove b n => exact hget (exec_get_effect (b := b) (n := n) (by simp))
  | putb b v | putbu b v | shWrite b v | encData b v | encCtrl b v | encLit b v =>
    exact hput (exec_put_effect (b := b) (v := v) (payload := []) (by simp))
  | shBegin b | shCommit b | encQuote b => exact hput (exec_put_effect (b := b) (v := 0) (payload := []) (by simp))
  | pktPut b payload => exact hput (exec_put_effect (b := b) (v := 0) (payload := payload) (by simp))
  | init b cap typ fmt => exact (execInit_keeps cap typ fmt).mono fun _ => InitKeeps.raisesNoTimeout
  | clrerr b =>
    refine execClrerr_keeps.mono fun t ht => ?_
    obtain ⟨e, r, rfl⟩ := ht
    exact .of_eq (by rw [State.respond_toErr, State.setBuf_toErr])
  | pdWriteb v =>
    refine (execPdWriteb_keeps v).mono fun t ht => ?_
    obtain ⟨e, l, rfl⟩ := ht
    exact .of_eq (State.setLane_toErr _ _ _)
  | pdClrerr => exact execPdClrerr_raisesNoTimeout
  | evRxirq =>
    refine execEvRxirq_keeps.mono fun t ht => ?_
    obtain ⟨q, l, rfl, -⟩ := ht
    exact .of_eq rfl
  | evTxirq => exact execEvTxirq_raisesNoTimeout
  | evTask => exact absurd rfl hi

/-! ### Micro-steps -/

@[simp] theorem State.settle_toErr (s : State) : s.settle.toErr = s.toErr := by
  rw [State.settle_eq, State.setLane_toErr]

@[simp] theorem State.take_toErr {a : Agent} {ms : List Micro} : (s.take a ms).toErr = s.toErr := by
  cases a <;> rfl

theorem State.drainByte_raisesNoTimeout : Post (RaisesNoTimeout s) s.drainByte := by
  unfold State.drainByte
  split
  · exact post_next.2 (.of_eq rfl)
  · dsimp only
    split
    · exact post_next.2 (.of_eq rfl)
    · exact Post.withPut (post_next.2 (.of_eq rfl))

theorem State.microStep_raisesNoTimeout (m : Micro) : Post (RaisesNoTimeout s) (s.microStep m) := by
  have hdone : ∀ t : State, t.toErr = s.toErr → Post (RaisesNoTimeout s) t.done := fun t ht =>
    post_next.2 (.of_eq (t.settle_toErr.trans ht))
  cases m with
  | uput b v => exact Post.withPut (hdone _ (State.setBuf_toErr _ _ _))
  | fill b => exact Post.withFill (hdone _ (State.setBuf_toErr _ _ _))
  | kick =>
    unfold State.microStep State.withIdleKick
    dsimp only
    split
    · exact State.withKick_raisesNoTimeout hdone
    · exact hdone s rfl
  | pktHas b => exact State.pktHasRound_effect.mono fun _ => GetEffect.raisesNoTimeout
  | pktGetc b => exact State.pktGetcRound_effect.mono fun _ => GetEffect.raisesNoTimeout
  | drain => exact State.drainByte_raisesNoTimeout (s := { s with laneI := { s.laneI with todo := .drain :: s.laneI.todo } })

theorem runMicro_raisesNoTimeout (a : Agent) : Post (RaisesNoTimeout s) (runMicro a s) := by
  cases hm : (s.lane a).todo with
  | nil => exact runMicro_idle hm ▸ post_next.2 (.of_eq rfl)
  | cons m ms =>
    cases hf : s.fault with
    | false =>
      rw [runMicro_cons hf hm]
      exact (State.microStep_raisesNoTimeout m).mono fun _ h ht => State.take_toErr ▸ h ht
    | true =>
      unfold runMicro
      rw [hm]
      simp only [hf]
      exact post_next.2 (.of_eq (State.setLane_toErr _ _ _))

/-! ### Scheduling -/

/-- What is planned starts with the timer as it is; a move of the environment does not set `toErr`. -/
def Plan.SameTimer (s : State) : Plan → Prop
  | .stop _ => True
  | .done t => RaisesNoTimeout s t
  | .micro _ t => Machine.SameTimer s t
  | .run _ t => Machine.SameTimer s t

theorem Plan.SameTimer.of_same {p : Plan} (h : p.SameTimer t) (ht : Machine.SameTimer s t) : p.SameTimer s := by
  obtain ⟨hfault, hpstate, hnow, hdeadline, htoErr⟩ := ht
  cases p with
  | stop r => trivial
  | done u => exact fun hu => htoErr ▸ h hu
  | micro a u => simpa only [Plan.SameTimer, Machine.SameTimer, hfault, hpstate, hnow, hdeadline, htoErr] using h
  | run f u => simpa only [Plan.SameTimer, Machine.SameTimer, hfault, hpstate, hnow, hdeadline, htoErr] using h

theorem State.endDrain_sameTimer (s : State) : SameTimer s s.endDrain := by
  unfold State.endDrain
  split
  · exact .refl s
  · exact ⟨rfl, rfl, rfl, rfl, rfl⟩

theorem State.planIdle_sameTimer (s : State) : s.planIdle.SameTimer s := by
  unfold State.planIdle
  split
  · exact .refl s
  split
  · exact .refl s
  split
  · exact .refl s
  split
  · exact .refl s
  · exact RaisesNoTimeout.of_eq rfl

theorem State.planAgent_sameTimer (s : State) (a : Agent) (j : Input) (rest : List Input) :
    (s.planAgent a j rest).SameTimer s := by
  unfold State.planAgent
  split
  · exact .refl s
  split
  · split
    · exact ⟨rfl, rfl, rfl, rfl, rfl⟩
    · exact .refl s
  split
  · split
    · exact ⟨rfl, rfl, rfl, rfl, rfl⟩
    · trivial
  · exact ⟨rfl, rfl, rfl, rfl, rfl⟩
  · exact RaisesNoTimeout.of_eq rfl

/-- Reset clears `toErr`, and every other move of the environment leaves it (10_state.md R43; 20_memory.md R59). -/
theorem State.outside_raisesNoTimeout (s : State) (j : Input) : RaisesNoTimeout s (s.outside j) := by
  cases j with
  | reset => exact nofun
  | _ => exact .of_eq rfl

theorem State.plan_sameTimer (s : State) : s.plan.SameTimer s := by
  unfold State.plan
  split
  · trivial
  split
  · exact s.endDrain.planIdle_sameTimer.of_same s.endDrain_sameTimer
  split
  · exact State.outside_raisesNoTimeout { s with inputs := _ } _
  split
  · exact (s.endDrain.planAgent_sameTimer _ _ _).of_same s.endDrain_sameTimer
  · trivial

/-- A step sets `toErr` only where it runs `EV_TASK`, which times out (44_portdriver.md R227 (c)). -/
theorem step_timeout :
    Post (fun t => RaisesNoTimeout s t ∨
      s.fault = false ∧ s.pstate ≠ .idle ∧ elapsed s.now s.deadline = true ∧
        ∃ u, s.plan = .run (encode .evTask) u ∧ t = u.timeout) (step s) := by
  have hplan := s.plan_sameTimer
  unfold step
  cases hp : s.plan with
  | stop r => exact post_refused
  | done t =>
    rw [hp] at hplan
    exact post_next.2 (.inl hplan)
  | micro a u =>
    rw [hp] at hplan
    exact (runMicro_raisesNoTimeout a).mono fun _ h => .inl (hplan.trans_raisesNoTimeout h)
  | run f u =>
    rw [hp] at hplan
    dsimp only
    split
    · rename_i i hdecode
      by_cases hi : i = .evTask
      · subst hi
        obtain rfl := encode_of_decode hdecode
        refine execEvTask_timeout.mono fun t ht => ?_
        have ⟨hfault, hpstate, hnow, hdeadline, _⟩ := hplan
        rw [hfault, hpstate, hnow, hdeadline] at ht
        exact ht.imp hplan.trans_raisesNoTimeout fun ⟨hf, hidle, hdue, heq⟩ => ⟨hf, hidle, hdue, u, rfl, heq⟩
      · exact (exec_raisesNoTimeout hi).mono fun _ h => .inl (hplan.trans_raisesNoTimeout h)
    · exact post_next.2 (.inl (hplan.trans_raisesNoTimeout u.illegalWord_answered.raisesNoTimeout))

end Timeout

/-- Settles O56: a step that sets `toErr` runs `EV_TASK`, and what that sets it by is the timeout. -/
theorem timeoutOnly : Obligations.TimeoutOnly := by
  unfold Obligations.TimeoutOnly
  intro s t hstep hclear hset
  obtain h | ⟨hf, hidle, hdue, u, hplan, rfl⟩ := step_timeout t hstep
  · exact absurd (hclear.symm.trans (h hset)) nofun
  · exact ⟨hf, hidle, hdue, rfl, rfl, u, hplan⟩

end Sys2Proof.Machine

/-! ## PortDriver: the host operations -/

namespace Sys2Proof.Machine

section HostOperations

variable {s : State} {v : Byte} {i : Instr} {op : BitVec 8} {m : Word}

/-- The words of the `PD_*` operations without operand, whose `BUF` is 0 (30_encoding.md R87). -/
theorem encode_host (hi : encode i = .cmd (assemble op .tx 0#7 0#16) []) (hm : op.setWidth 32 <<< 24 = m) :
    encode i = .cmd m [] := by
  rw [encode_plain hi hm, BufSel.word, BitVec.or_zero]

theorem State.portError_iff (s : State) : s.portError = true ↔ s.tx.err = true ∨ s.toErr = true :=
  Bool.or_eq_true_iff

theorem State.portBusy_iff (s : State) : s.portBusy = true ↔ s.pstate ≠ .idle ∨ s.tx.put ≠ s.tx.get := by
  simp [State.portBusy, Buffer.isEmpty]

theorem execPdWriteb_eq (hr : s.ready .host .tx) :
    execPdWriteb v s = .next
      (if s.portError then s.refuse .porterr
      else if s.tx.shv then s.refuse .busy
      else if s.tx.free < (s.dataBytes .tx v).length then s.refuseNoSpace .tx
      else s.begin (putSteps .tx (s.dataBytes .tx v) ++ [.kick])
        (some ⟨.ok, .none, 1, half (s.dataBytes .tx v).length⟩)) := by
  unfold execPdWriteb
  rw [State.command_ready hr]
  simp only [apply_ite Host.Outcome.next]

theorem execPdIsbusy_eq (hr : s.ready .host .tx) :
    execPdIsbusy s = .next (s.ret .none (if s.pstate ≠ .idle ∨ s.tx.put ≠ s.tx.get then 1 else 0) 0) := by
  rw [← toNat_eq_ite_of_iff s.portBusy_iff]
  exact State.command_ready hr

theorem execPdStatus_eq (ha : s.accepts .host .tx) : execPdStatus s = .next (s.ret .none s.statusBits 0) :=
  State.commandAnytime_accepts ha

theorem execPdClrerr_eq (ha : s.accepts .host .tx) :
    execPdClrerr s = .next (State.ret .none 0 0 { s with toErr := false, tx := { s.tx with err := false } }) :=
  State.commandAnytime_accepts ha

end HostOperations

/-- Settles O49. -/
theorem pdWritebRule : Obligations.PdWritebRule := by
  unfold Obligations.PdWritebRule
  refine ⟨fun v => ?_, fun v s hr => ?_⟩
  · rw [encode_byte (i := .pdWriteb v) (m := 0x40000000#32) rfl rfl, BufSel.word, BitVec.or_zero]
  · simp only [← State.portError_iff]
    exact execPdWriteb_eq hr

/-- Settles O50. -/
theorem portStatusOps : Obligations.PortStatusOps := by
  unfold Obligations.PortStatusOps
  refine ⟨⟨encode_host rfl rfl, encode_host rfl rfl, encode_host rfl rfl⟩, fun s => ⟨execPdIsbusy_eq, fun ha =>
    ⟨execPdStatus_eq ha, execPdClrerr_eq ha⟩⟩⟩

end Sys2Proof.Machine

/-! ## PortDriver: the events -/

namespace Sys2Proof.Machine

section Events

variable {s : State}

theorem Buffer.isEmpty_iff_eq (q : Buffer) : q.isEmpty = true ↔ q.put = q.get := beq_iff_eq

/-- A buffer that is not empty has been initialised, and `get` is an offset into it (10_state.md R21, R24). -/
theorem Buffer.get_lt_of_nonempty {q : Buffer} (ho : q.offsetsOk) (hne : q.put ≠ q.get) :
    q.cap ≠ 0 ∧ q.get.toNat < q.cap.toNat := by
  have hc : q.cap ≠ 0 := by
    intro hc
    obtain ⟨hput, hget, -⟩ := ho.2 hc
    exact hne (hput.trans hget.symm)
  exact ⟨hc, (ho.1 hc).2⟩

/-- While Idle, `EV_TASK` does what the last micro-step of `PD_WRITEB` does (44_portdriver.md R213, R214). -/
theorem execEvTask_idle (hf : s.fault = false) (ho : s.tx.offsetsOk) (hidle : s.pstate = .idle) :
    execEvTask s = .next s.kicked := by
  have hcond : (s.tx.cap ≠ 0 ∧ s.tx.isEmpty = false) ↔ s.tx.put ≠ s.tx.get := by
    rw [Buffer.isEmpty, beq_eq_false_iff_ne]
    exact and_iff_right_of_imp fun hne => (Buffer.get_lt_of_nonempty ho hne).1
  unfold execEvTask
  rw [if_neg (Bool.eq_false_iff.1 hf), if_pos hidle]
  by_cases hne : s.tx.put ≠ s.tx.get
  · have hkick : s.withIdleKick .next = s.withKick .next := if_pos ⟨hidle, beq_eq_false_iff_ne.2 hne⟩
    rw [if_pos (hcond.2 hne), ← hkick, State.withIdleKick_eq (Buffer.get_lt_of_nonempty ho hne).2]
  · rw [if_neg (mt hcond.1 hne), State.kicked, if_pos (.inr (not_not.1 hne))]

theorem execEvTask_sending (hf : s.fault = false) (hp : s.pstate ≠ .idle) :
    execEvTask s = .next (if elapsed s.now s.deadline then s.timeout else s) := by
  unfold execEvTask
  rw [if_neg (Bool.eq_false_iff.1 hf), if_neg hp, apply_ite Host.Outcome.next]

theorem execEvTxirq_nothing (h : s.fault = true ∨ s.pstate ≠ .transmitting ∨ s.per.txreg ≠ none) :
    execEvTxirq s = .next s := by
  unfold execEvTxirq
  split
  · rfl
  · have hbusy : ¬ (s.pstate = .transmitting ∧ s.per.canTx = true) := by
      rintro ⟨hp, htx⟩
      obtain hf | hnot | hreg := h
      · exact ‹¬ _› hf
      · exact hnot hp
      · exact hreg (Option.isNone_iff_eq_none.1 htx)
    exact if_neg hbusy

/-- While Transmitting, the peripheral being able to take a byte (44_portdriver.md R215). -/
theorem execEvTxirq_sending (hf : s.fault = false) (ho : s.tx.offsetsOk) (hp : s.pstate = .transmitting)
    (htx : s.per.txreg = none) :
    execEvTxirq s = .next (if s.tx.put = s.tx.get then { s with pstate := .idle }
      else { s.pulled with deadline := s.armed }) := by
  unfold execEvTxirq
  rw [if_neg (Bool.eq_false_iff.1 hf), if_pos ⟨hp, Option.isNone_iff_eq_none.2 htx⟩]
  by_cases he : s.tx.put = s.tx.get
  · rw [if_pos he, if_pos (s.tx.isEmpty_iff_eq.2 he)]
  · rw [if_neg he, if_neg (mt s.tx.isEmpty_iff_eq.1 he), State.withPulledByte_below (Buffer.get_lt_of_nonempty ho he).2]
    rfl

/-- With no byte at the peripheral a pending drain makes no difference to what is planned (44_portdriver.md R216). -/
theorem State.plan_noDrain (hrx : s.per.hasRx = false) (hin : ∀ j, s.inputs.head? = some j → j.agent ≠ none) :
    s.plan = s.noDrain.plan := by
  have hover : s.endDrain = s.noDrain.endDrain :=
    (State.endDrain_noDrain (.inr hrx)).trans (State.endDrain_noDrain (.inl rfl) : s.noDrain.endDrain = _).symm
  have hinputs : s.noDrain.inputs = s.inputs := rfl
  have hpar : s.noDrain.par = s.par := rfl
  unfold State.plan
  rw [hover, hinputs, hpar]
  cases hl : s.inputs with
  | nil => rfl
  | cons j rest =>
    cases hagent : j.agent with
    | none => exact absurd hagent (hin j (by rw [hl]; rfl))
    | some a => simp only [hagent]

end Events

/-- Settles O51: while Idle the event is the kick-start, otherwise the deadline decides. -/
theorem evTaskRule : Obligations.EvTaskRule := by
  unfold Obligations.EvTaskRule
  intro s ho
  dsimp only
  split
  · exact if_pos ‹_›
  have hf : s.fault = false := Bool.eq_false_iff.2 ‹_›
  split
  · rename_i hidle
    refine (execEvTask_idle hf ho hidle).trans (congrArg _ ?_)
    have hsame : (s.pstate ≠ .idle ∨ s.tx.put = s.tx.get) ↔ (s.tx.cap = 0 ∨ s.tx.put = s.tx.get) :=
      ⟨fun h => .inr (h.resolve_left fun hne => hne hidle),
        fun h => .inr (not_not.1 fun hne => h.elim (Buffer.get_lt_of_nonempty ho hne).1 hne)⟩
    rw [State.kicked, State.afterRead_eq_ite]
    simp only [hsame]
    rfl
  · exact execEvTask_sending hf ‹_›

/-- Settles O52: where the event does anything, the peripheral can take a byte, and `TX` is empty or one is pulled from it. -/
theorem evTxirqRule : Obligations.EvTxirqRule := by
  unfold Obligations.EvTxirqRule
  intro s ho
  dsimp only
  split
  · exact execEvTxirq_nothing ‹_›
  · rename_i h
    simp only [not_or, Bool.not_eq_true, not_not] at h
    obtain ⟨hf, hp, htx⟩ := h
    rw [State.afterRead_eq_ite]
    exact execEvTxirq_sending hf ho hp htx

/-- Settles O53: the event begins the drain, each iteration hands one byte to `RX`, and where the peripheral has no byte the
plan is the one without a drain. -/
theorem evRxirqRule : Obligations.EvRxirqRule := by
  unfold Obligations.EvRxirqRule
  refine ⟨fun s => (apply_ite Host.Outcome.next _ _ _).symm, fun s v more hf ho hl hq => ?_, fun s hrx hin => ?_⟩
  · refine (runMicro_drain hf ho hl hq).trans (congrArg _ ?_)
    simp only [Buffer.received, Buffer.isFull_iff]
    split
    · exact (if_pos ‹_›).symm
    · exact (if_neg ‹_›).symm
  · unfold step
    rw [State.plan_noDrain hrx hin]
    rfl

end Sys2Proof.Machine

/-! ## The fault latch: which operations touch it, and the sticky error flags -/

namespace Sys2Proof.Machine

/-- The fault latch is as it was, and no sticky error flag rises (10_state.md R28, R30). -/
structure FlagsKept (s t : State) : Prop where
  fault : t.fault = s.fault
  err : ∀ c, (t.buf c).err = true → (s.buf c).err = true

/-- What an instruction can do to the fault latch and the sticky error flags: nothing but clear a flag; refuse with `NOSPACE`
(60_exceptions.md R242); or latch, which is `PUTBU`'s alone (R244). -/
inductive FlagEffect (s : State) : Instr → State → Prop where
  | kept {i : Instr} {t : State} (h : FlagsKept s t) : FlagEffect s i t
  | nospace {i : Instr} {b : BufSel} (h : bufOf i = b) : FlagEffect s i (s.refuseNoSpace b)
  | latch {b : BufSel} (v : Byte) (h : (s.buf b).isFull = true) : FlagEffect s (.putbu b v) (s.latchFault.refuse .fault)

section Flags

variable {s t u : State} {b : BufSel} {i : Instr} {side : Side} {body : Result}

/-! ### What keeps the flags -/

theorem FlagsKept.of_eq (hf : t.fault = s.fault) (hb : ∀ c, t.buf c = s.buf c) : FlagsKept s t :=
  ⟨hf, fun c h => hb c ▸ h⟩

theorem FlagsKept.trans (h : FlagsKept s t) (h' : FlagsKept t u) : FlagsKept s u :=
  ⟨h'.fault.trans h.fault, fun c hc => h.err c (h'.err c hc)⟩

theorem FlagsKept.setBuf {q : Buffer} (hq : q.err = true → (s.buf b).err = true := by simp) :
    FlagsKept s (s.setBuf b q) := by
  refine ⟨State.setBuf_fault _ _ _, fun c hc => ?_⟩
  by_cases hcb : c = b
  · subst hcb
    exact hq (by simpa using hc)
  · rwa [State.buf_setBuf_of_ne _ _ hcb] at hc

theorem FlagsKept.setLane (a : Agent) (l : Lane) : FlagsKept s (s.setLane a l) :=
  .of_eq (State.setLane_fault _ _ _) fun _ => State.setLane_buf _ _ _ _

/-- An operation that changes one buffer and its own lane. -/
theorem FlagsKept.setBuf_setLane {q : Buffer} (a : Agent) (l : Lane)
    (hq : q.err = true → (s.buf b).err = true := by simp) : FlagsKept s ((s.setBuf b q).setLane a l) :=
  (FlagsKept.setBuf hq).trans (.setLane a l)

theorem GetEffect.flagsKept (h : GetEffect s b t) : FlagsKept s t := by
  obtain ⟨g, d, l, rfl⟩ := h
  have hdraws : FlagsKept s { s with draws := d } := .of_eq rfl fun _ => State.draws_buf _ _ _
  exact hdraws.trans (.setBuf_setLane _ _)

theorem Answered.flagsKept (h : Answered s t) : FlagsKept s t := (h.getEffect (b := .tx)).flagsKept

theorem TransmitKeeps.flagsKept (h : TransmitKeeps s t) : FlagsKept s t := by
  obtain ⟨hrx, -, hfault, -, -, -, -, g, htx⟩ := h
  refine ⟨hfault, fun c hc => ?_⟩
  cases c with
  | tx => rwa [State.buf_tx, htx] at hc
  | rx => rwa [State.buf_rx, hrx] at hc

/-! ### Rules for the shared operations -/

theorem FlagEffect.refuse (st : Status) : FlagEffect s i (s.refuse st) := .kept (Answered.refuse st).flagsKept

theorem FlagEffect.command (hb : Post (FlagEffect s i) body) : Post (FlagEffect s i) (s.command side b body) :=
  Post.command .refuse fun _ => hb

theorem FlagEffect.commandAnytime (hb : Post (FlagEffect s i) body) :
    Post (FlagEffect s i) (s.commandAnytime side b body) :=
  Post.commandAnytime .refuse fun _ => hb

theorem FlagEffect.guard {c : Prop} [Decidable c] {st : Status} (hb : Post (FlagEffect s i) body) :
    Post (FlagEffect s i) (if c then .next (s.refuse st) else body) :=
  Post.guard (.refuse _) fun _ => hb

/-- The check for space (10_state.md R28). -/
theorem FlagEffect.room {c : Prop} [Decidable c] (hi : bufOf i = b) (hb : Post (FlagEffect s i) body) :
    Post (FlagEffect s i) (if c then .next (s.refuseNoSpace b) else body) := by
  split
  · exact post_next.2 (.nospace hi)
  · exact hb

/-- A change of the buffer that raises no flag, and the answer. -/
theorem FlagEffect.setBuf_ret {q : Buffer} (m n : Nat)
    (hq : q.err = true → (s.buf b).err = true := by simp) :
    Post (FlagEffect s i) (.next ((s.setBuf b q).ret .none m n)) :=
  post_next.2 (.kept (.setBuf_setLane _ _ hq))

theorem FlagEffect.begin (ms : List Micro) (r : Option Response) : FlagEffect s i (s.begin ms r) :=
  .kept (.setLane _ _)

theorem FlagEffect.withPut_ret (v : Byte) : Post (FlagEffect s i) (s.withPut b v fun t => .next (t.ret .none 1 0)) :=
  Post.withPut (FlagEffect.setBuf_ret _ _)

theorem FlagEffect.storeAll (hi : bufOf i = b) (bs : List Byte) : Post (FlagEffect s i) (s.storeAll b bs) :=
  Post.storeAll (.nospace hi) (fun _ _ _ => .kept (.setBuf_setLane _ _)) fun _ _ _ => .begin _ _

/-! ### The instructions -/

theorem execInit_flags (cap : Half) (typ : BitVec 2) (fmt : BitVec 3) :
    Post (FlagEffect s (.init b cap typ fmt)) (execInit b cap typ fmt s) := by
  refine FlagEffect.commandAnytime ?_
  split
  · exact FlagEffect.guard (FlagEffect.guard (FlagEffect.setBuf_ret _ _ (by simp [Buffer.configured])))
  · exact post_next.2 (.refuse _)

theorem execPutbu_flags (v : Byte) : Post (FlagEffect s (.putbu b v)) (execPutbu b v s) := by
  refine FlagEffect.command (FlagEffect.guard ?_)
  split
  · exact post_next.2 (.latch v ‹_›)
  · exact FlagEffect.withPut_ret v

theorem execShWrite_flags (v : Byte) : Post (FlagEffect s (.shWrite b v)) (execShWrite b v s) := by
  refine FlagEffect.command (FlagEffect.guard (FlagEffect.room rfl (Post.withWrite fun _ => post_next.2 ?_)))
  have hstore : FlagsKept s (s.setBuf b { s.buf b with store := Memory.write (s.buf b).store (s.buf b).cur.toNat v }) :=
    .setBuf
  exact .kept (hstore.trans (.setBuf_setLane _ _))

theorem execPktPut_flags (payload : List Byte) : Post (FlagEffect s (.pktPut b payload)) (execPktPut b payload s) := by
  refine FlagEffect.command (FlagEffect.guard (FlagEffect.guard (FlagEffect.guard ?_)))
  split
  · exact post_next.2 (.nospace rfl)
  · exact post_next.2 (.begin _ _)

theorem execPdClrerr_flags : Post (FlagEffect s .pdClrerr) (execPdClrerr s) := by
  refine FlagEffect.commandAnytime (post_next.2 (.kept ?_))
  have htoErr : FlagsKept s { s with toErr := false } := .of_eq rfl fun c => by cases c <;> rfl
  exact htoErr.trans (.setBuf_setLane _ _)

theorem execEvRxirq_flags : Post (FlagEffect s .evRxirq) (execEvRxirq s) := by
  refine execEvRxirq_keeps.mono fun t ht => ?_
  obtain ⟨q, l, rfl, -⟩ := ht
  exact .kept (.of_eq rfl fun c => by cases c <;> rfl)

/-- The fault latch and the sticky error flags, instruction by instruction. -/
theorem exec_flags (i : Instr) : Post (FlagEffect s i) (exec i s) := by
  have hquery : ∀ {r : Result}, Post (Answered s) r → Post (FlagEffect s i) r := fun h =>
    h.mono fun _ ht => .kept ht.flagsKept
  have hget : ∀ {b} {r : Result}, Post (GetEffect s b) r → Post (FlagEffect s i) r := fun h =>
    h.mono fun _ ht => .kept ht.flagsKept
  cases i with
  | isempty b | isfull b | count b | free b | rspan b | wspan b | geterr b | peekb b | decPeek b | decPeekl b =>
    exact hquery (exec_query_answered (b := b) (k := 0) (by simp))
  | peekat b k | drd b k => exact hquery (exec_query_answered (b := b) (k := k) (by simp))
  | pdIsbusy | pdStatus => exact hquery (exec_query_answered (b := .tx) (k := 0) (by simp))
  | getb b | pktHas b | pktGetc b | decGet b | decGetl b => exact hget (exec_get_effect (b := b) (n := 0) (by simp))
  | remove b n => exact hget (exec_get_effect (b := b) (n := n) (by simp))
  | init b cap typ fmt => exact execInit_flags cap typ fmt
  | clrerr b => exact FlagEffect.command (FlagEffect.setBuf_ret _ _)
  | putb b v => exact FlagEffect.command (FlagEffect.guard (FlagEffect.room rfl (FlagEffect.withPut_ret v)))
  | putbu b v => exact execPutbu_flags v
  | shBegin b => exact FlagEffect.command (FlagEffect.setBuf_ret _ _)
  | shWrite b v => exact execShWrite_flags v
  | shCommit b => exact FlagEffect.command (FlagEffect.guard (FlagEffect.setBuf_ret _ _))
  | pktPut b payload => exact execPktPut_flags payload
  | encData b v => exact FlagEffect.command (FlagEffect.guard (FlagEffect.storeAll rfl _))
  | encCtrl b c =>
    exact FlagEffect.command (FlagEffect.guard (FlagEffect.guard (FlagEffect.guard (FlagEffect.storeAll rfl _))))
  | encQuote b | encLit b v =>
    exact FlagEffect.command (FlagEffect.guard (FlagEffect.guard (FlagEffect.storeAll rfl _)))
  | pdWriteb v =>
    exact FlagEffect.command (FlagEffect.guard (FlagEffect.guard (FlagEffect.room rfl (post_next.2 (.begin _ _)))))
  | pdClrerr => exact execPdClrerr_flags
  | evRxirq => exact execEvRxirq_flags
  | evTxirq => exact execEvTxirq_keeps.mono fun _ ht => .kept ht.flagsKept
  | evTask => exact execEvTask_keeps.mono fun _ ht => .kept ht.flagsKept

theorem State.refuseNoSpace_buf_of_ne {c : BufSel} (h : c ≠ b) : (s.refuseNoSpace b).buf c = s.buf c := by
  unfold State.refuseNoSpace State.setErr
  rw [State.refuse_buf, State.buf_setBuf_of_ne _ _ h]

end Flags

/-- Settles O57: of what an instruction can do to the sticky flags, only the refusal `NOSPACE` sets one. -/
theorem onlyNospaceSetsErr : Obligations.OnlyNospaceSetsErr := by
  unfold Obligations.OnlyNospaceSetsErr
  intro i b s t _ ht hclear hset
  cases exec_flags i t ht with
  | kept hkept => exact absurd (hclear.symm.trans (hkept.err b hset)) nofun
  | nospace hsel =>
    refine ⟨?_, State.refuse_answer _ _⟩
    by_contra hne
    rw [State.refuseNoSpace_buf_of_ne (hsel ▸ hne), hclear] at hset
    exact nomatch hset
  | latch v hfull =>
    rw [State.refuse_buf, State.latchFault_buf, hclear] at hset
    exact nomatch hset

end Sys2Proof.Machine

/-! ## The fault latch: steps -/

namespace Sys2Proof.Machine

/-- The registers of the engine that a faulted one keeps: the fault latch, both Buffers and the PortSession (10_state.md R20,
R30, R32 to R35; 60_exceptions.md R244). -/
def State.registers (s : State) : Bool × Buffer × Buffer × TxState × Word × Bool :=
  (s.fault, s.tx, s.rx, s.pstate, s.deadline, s.toErr)

section FaultSteps

variable {s t : State}

theorem State.registers_eq_iff : t.registers = s.registers ↔
    t.fault = s.fault ∧ t.tx = s.tx ∧ t.rx = s.rx ∧ t.pstate = s.pstate ∧ t.deadline = s.deadline ∧
      t.toErr = s.toErr := by
  simp [State.registers]

theorem State.fault_of_registers (h : t.registers = s.registers) : t.fault = s.fault := (State.registers_eq_iff.1 h).1

/-! ### A faulted engine is frozen -/

@[simp] theorem State.setLane_registers (s : State) (a : Agent) (l : Lane) : (s.setLane a l).registers = s.registers := by
  cases a <;> rfl

theorem Answered.registers (h : Answered s t) : t.registers = s.registers := by
  obtain ⟨r, d, rfl⟩ := h
  exact State.setLane_registers _ _ _

/-- Every command is refused with `FAULT`, and every event does nothing (60_exceptions.md R244). -/
theorem exec_faulted (hf : s.fault = true) (i : Instr) : Post (fun t => t.registers = s.registers) (exec i s) := by
  by_cases hi : sideOf i = .event
  · have hnothing : exec i s = .next s := by
      cases i with
      | evRxirq | evTxirq | evTask => exact if_pos hf
      | _ => cases hi
    exact hnothing ▸ post_next.2 rfl
  · rw [exec_of_portRefusal hi (State.portRefusal_fault hf)]
    exact post_next.2 (Answered.refuse _).registers

theorem runMicro_faulted (hf : s.fault = true) (a : Agent) :
    Post (fun t => t.registers = s.registers) (runMicro a s) := by
  unfold runMicro
  split
  · exact post_next.2 rfl
  · exact if_pos hf ▸ post_next.2 (State.setLane_registers _ _ _)

/-! ### A micro-step does not latch -/

@[simp] theorem State.settle_fault (s : State) : s.settle.fault = s.fault := by
  rw [State.settle_eq, State.setLane_fault]

theorem State.withIdleKick_fault : Post (fun t => t.fault = s.fault) (s.withIdleKick State.done) := by
  unfold State.withIdleKick
  split
  · unfold State.withKick
    dsimp only
    split
    · exact Post.withPulledByte fun _ _ _ => post_next.2 (State.settle_fault _)
    · exact post_next.2 (State.settle_fault _)
  · exact post_next.2 (State.settle_fault _)

theorem State.drainByte_fault : Post (fun t => t.fault = s.fault) s.drainByte := by
  unfold State.drainByte
  split
  · exact post_next.2 rfl
  · dsimp only
    split
    · exact post_next.2 rfl
    · exact Post.withPut (post_next.2 rfl)

theorem State.microStep_fault (m : Micro) : Post (fun t => t.fault = s.fault) (s.microStep m) := by
  cases m with
  | uput b v => exact Post.withPut (post_next.2 ((State.settle_fault _).trans (State.setBuf_fault _ _ _)))
  | fill b => exact Post.withFill (post_next.2 ((State.settle_fault _).trans (State.setBuf_fault _ _ _)))
  | kick => exact State.withIdleKick_fault
  | pktHas b => exact State.pktHasRound_effect.mono fun _ h => h.flagsKept.fault
  | pktGetc b => exact State.pktGetcRound_effect.mono fun _ h => h.flagsKept.fault
  | drain => exact State.drainByte_fault (s := { s with laneI := { s.laneI with todo := .drain :: s.laneI.todo } })

theorem runMicro_fault (a : Agent) : Post (fun t => t.fault = s.fault) (runMicro a s) := by
  cases hf : s.fault with
  | true => exact (runMicro_faulted hf a).mono fun _ h => (State.fault_of_registers h).trans hf
  | false =>
    cases hm : (s.lane a).todo with
    | nil => exact runMicro_idle hm ▸ post_next.2 hf
    | cons m ms =>
      rw [runMicro_cons hf hm]
      exact (State.microStep_fault m).mono fun _ h => h.trans (State.take_fault.trans hf)

/-! ### Scheduling -/

/-- The registers are those of `s` when what is planned is taken. -/
def Plan.SameRegisters (s : State) : Plan → Prop
  | .stop _ => True
  | .done t => t.registers = s.registers
  | .micro _ t => t.registers = s.registers
  | .run _ t => t.registers = s.registers

theorem Plan.SameRegisters.trans {p : Plan} (h : p.SameRegisters t) (ht : t.registers = s.registers) :
    p.SameRegisters s := by
  cases p with
  | stop r => trivial
  | done u => exact Eq.trans h ht
  | micro a u => exact Eq.trans h ht
  | run f u => exact Eq.trans h ht

theorem State.endDrain_registers (s : State) : s.endDrain.registers = s.registers := by
  unfold State.endDrain
  split
  · rfl
  · rfl

theorem State.planIdle_sameRegisters (s : State) : s.planIdle.SameRegisters s := by
  unfold State.planIdle
  repeat' split
  all_goals exact rfl

theorem State.planAgent_sameRegisters (s : State) (a : Agent) (j : Input) (rest : List Input) :
    (s.planAgent a j rest).SameRegisters s := by
  unfold State.planAgent
  split
  · exact rfl
  split
  · split
    · exact rfl
    · exact rfl
  split
  · split
    · exact rfl
    · trivial
  · exact rfl
  · exact rfl

/-- Reset is the only move of the environment that touches a register (70_reset_and_hazards.md R270). -/
theorem State.outside_registers {j : Input} (hj : j ≠ .reset) : (s.outside j).registers = s.registers := by
  cases j with
  | reset => exact absurd rfl hj
  | _ => rfl

theorem State.plan_sameRegisters (hin : s.inputs.head? ≠ some .reset) : s.plan.SameRegisters s := by
  unfold State.plan
  split
  · trivial
  split
  · exact s.endDrain.planIdle_sameRegisters.trans s.endDrain_registers
  rename_i j rest hj
  split
  · exact State.outside_registers (s := { s with inputs := rest }) fun e => hin (by simp [hj, e])
  split
  · exact (s.endDrain.planAgent_sameRegisters _ _ _).trans s.endDrain_registers
  · trivial

/-- What a step other than reset can do to the registers: nothing, or what a micro-step or an instruction does to them as they
are. -/
theorem step_cases (hin : s.inputs.head? ≠ some .reset) (h : step s = .next t) :
    t.registers = s.registers ∨ ∃ u, u.registers = s.registers ∧
      ((∃ a, runMicro a u = .next t) ∨ ∃ f i, s.plan = .run f u ∧ decode f = .ok i ∧ exec i u = .next t) := by
  have hplan := State.plan_sameRegisters hin
  unfold step at h
  cases hp : s.plan with
  | stop r =>
    rw [hp] at h
    cases h
  | done u =>
    rw [hp] at h hplan
    cases h
    exact .inl hplan
  | micro a u =>
    rw [hp] at h hplan
    exact .inr ⟨u, hplan, .inl ⟨a, h⟩⟩
  | run f u =>
    rw [hp] at h hplan
    dsimp only at h
    split at h
    · exact .inr ⟨u, hplan, .inr ⟨f, _, rfl, ‹_›, h⟩⟩
    · cases h
      exact .inl (u.illegalWord_answered.registers.trans hplan)

/-- Reset clears the fault latch (10_state.md R43). -/
theorem step_reset_fault (hin : s.inputs.head? = some .reset) : Post (fun t => t.fault = false) (step s) := by
  obtain ⟨rest, hrest⟩ := List.head?_eq_some_iff.1 hin
  cases hpar : s.par.ok with
  | true =>
    rw [step_outside hpar hrest rfl]
    exact post_next.2 rfl
  | false =>
    unfold step State.plan
    rw [if_pos hpar]
    exact post_refused

theorem step_faulted (hf : s.fault = true) (hin : s.inputs.head? ≠ some .reset) (h : step s = .next t) :
    t.registers = s.registers := by
  obtain hsame | ⟨u, hu, hmicro | hrun⟩ := step_cases hin h
  · exact hsame
  · obtain ⟨a, ha⟩ := hmicro
    exact (runMicro_faulted ((State.fault_of_registers hu).trans hf) a t ha).trans hu
  · obtain ⟨f, i, -, -, hi⟩ := hrun
    exact (exec_faulted ((State.fault_of_registers hu).trans hf) i t hi).trans hu

/-- A step that sets the latch runs a `PUTBU` on a full buffer (60_exceptions.md R244). -/
theorem step_latches (hf : s.fault = false) (ht : t.fault = true) (h : step s = .next t) :
    ∃ f u b v, s.plan = .run f u ∧ decode f = .ok (.putbu b v) ∧ u.registers = s.registers ∧
      (u.buf b).isFull = true ∧ t = u.latchFault.refuse .fault := by
  have hchanged : ∀ u : State, u.registers = s.registers → t.fault ≠ u.fault := by
    intro u hu
    rw [State.fault_of_registers hu, hf, ht]
    exact nofun
  have hin : s.inputs.head? ≠ some .reset := fun e => absurd (ht.symm.trans (step_reset_fault e t h)) nofun
  obtain hsame | ⟨u, hu, hmicro | hrun⟩ := step_cases hin h
  · exact absurd rfl (hchanged t hsame)
  · obtain ⟨a, ha⟩ := hmicro
    exact absurd (runMicro_fault a t ha) (hchanged u hu)
  · obtain ⟨f, i, hplan, hdecode, hi⟩ := hrun
    cases exec_flags i t hi with
    | kept hkept => exact absurd hkept.fault (hchanged u hu)
    | nospace _ => exact absurd (by simp [State.refuseNoSpace]) (hchanged u hu)
    | latch v hfull => exact ⟨f, u, _, v, hplan, hdecode, hu, hfull, rfl⟩

end FaultSteps

/-- Settles O55: of all that a step can do, only `PUTBU` on a full buffer latches; and a faulted engine drops its micro-steps,
refuses its commands and ignores its events. -/
theorem faultLatch : Obligations.FaultLatch := by
  unfold Obligations.FaultLatch
  refine fun s t h => ⟨fun hf ht => ?_, fun hf hin => ?_⟩
  · obtain ⟨f, u, b, v, hplan, hdecode, hu, hfull, rfl⟩ := step_latches hf ht h
    obtain ⟨-, htx, hrx, -⟩ := State.registers_eq_iff.1 hu
    refine ⟨f, u, b, v, hplan, hdecode, hfull, ?_, ?_, fun a => ?_⟩
    · rw [State.refuse_tx, ← htx]
      rfl
    · rw [State.refuse_rx, ← hrx]
      rfl
    · rw [State.refuse_todo, State.latchFault_todo]
  · obtain ⟨hfault, hrest⟩ := State.registers_eq_iff.1 (step_faulted hf hin h)
    exact ⟨hfault.trans hf, hrest⟩

end Sys2Proof.Machine

/-! ## The reset input -/

namespace Sys2Proof.Machine

theorem Memory.read_buffer_reset (off : Nat) : Memory.read Buffer.reset.store off = none := rfl

@[simp] theorem State.engineReset_buf (s : State) (b : BufSel) : s.engineReset.buf b = .reset := by
  cases b with
  | tx => rfl
  | rx => rfl

@[simp] theorem State.engineReset_lane (s : State) (a : Agent) : s.engineReset.lane a = .idle := by
  cases a with
  | p => rfl
  | g => rfl
  | h => rfl
  | irq => rfl

/-- The reset input takes one step, whatever is pending (70_reset_and_hazards.md R270). -/
theorem step_reset {s : State} {rest : List Input} (hpar : s.par.ok = true) (hin : s.inputs = .reset :: rest) :
    step s = .next { s with inputs := rest }.engineReset :=
  step_outside hpar hin rfl

/-- Settles O5: the step of the reset input is `engineReset`, which leaves both buffers as `Buffer.reset` and every agent
idle. -/
theorem resetStep : Obligations.ResetStep := by
  unfold Obligations.ResetStep
  intro s rest hpar hin
  refine ⟨_, step_reset hpar hin, rfl, rfl, rfl, rfl, fun b => ?_, rfl, rfl, rfl, rfl, fun a => ?_⟩
  · rw [State.engineReset_buf]
    exact ⟨rfl, rfl, rfl, rfl, rfl, rfl, rfl, rfl, Memory.read_buffer_reset⟩
  · rw [State.engineReset_lane]
    rfl

end Sys2Proof.Machine
